-- ==== Sys2Proof/Word.lean ====
section
/-! DEFINITION. The two widths of the core (spec/00_scope.md R2): 8-bit data and 16-bit addresses. -/

namespace Sys2Proof

/-- A data byte: the registers A, X, Y, SP, P and one memory cell (R2, "Data width"). -/
abbrev Byte := BitVec 8

/-- A 16-bit value: the program counter and every address (R2, "Address width"). -/
abbrev Word := BitVec 16

end Sys2Proof
end

