-- ==== Sys2Proof/Config.lean ====
section
/-! DEFINITION. The two named parameters that spec/00_scope.md R2 leaves to the implementation. -/

namespace Sys2Proof

/-- The parameters of R2 that are not fixed.  The machine's state carries one value of this type, which
no step changes (notes/assumptions/2.md), so a statement about every state holds for both settings. -/
structure Config where
  /-- `ZN_SET_ONLY` (R2, R27, decision D2): `SetZN` only sets Zero and Negative and never clears them. -/
  znSetOnly : Bool
  /-- `ZP_PTR_WRAP` (R2, R61, decision D4): the high byte of a zero-page pointer at 0x00FF comes from
  0x0000 when true, from 0x0100 when false. -/
  zpPtrWrap : Bool
  deriving DecidableEq, Repr

end Sys2Proof
end

