-- ==== Sys2Proof/Machine/ResetValues.lean ====
section
/-! DEFINITION. The values that Reset gives (spec/10_state.md R34) and the default parameters
(spec/00_scope.md R2). -/

namespace Sys2Proof.Machine

/-- `PC` after Reset: the address itself, not a vector's contents (R34, R241). -/
def resetPc : Word := 0xFFFC#16

/-- `SP` after Reset (R34). -/
def resetSp : Byte := 0xFF#8

/-- `A`, `X` and `Y` after Reset (R34). -/
def resetReg : Byte := 0x00#8

/-- `P` after Reset: every flag clear (R34). -/
def resetP : Byte := 0x00#8

/-- What a memory cell reads as until something else is written to it: Reset zero-fills memory (R34). -/
def unlistedByte : Byte := 0x00#8

/-- The default parameters of R2: set-only flags, and no wrap of a zero-page pointer. -/
def defaultConfig : Config := { znSetOnly := true, zpPtrWrap := false }

end Sys2Proof.Machine
end

