-- ==== Sys2Proof/Machine/State.lean ====
section
/-! DEFINITION. The state of the core (spec/10_state.md R20 to R36), the reasons a step can stop, and
the state after Reset. -/

namespace Sys2Proof.Machine

/-- The three general registers (R23). -/
inductive Reg where
  | a
  | x
  | y
  deriving DecidableEq, Repr

/-- Why the core is Faulted, with its diagnostics (R32, spec/60_exceptions.md R210 to R212). -/
inductive FaultCause where
  /-- Cause 1: the opcode byte `op`, fetched from `addr`, is not mapped (R211). -/
  | unknownOpcode (op : Byte) (addr : Word)
  /-- Cause 2: R212 names no diagnostics for it and says that nothing can raise it. -/
  | outOfRangeAddress
  deriving DecidableEq, Repr

/-- The run state and fault latch `RUN` (R32). -/
inductive RunState where
  /-- No Execute call is in progress. -/
  | halted
  /-- An Execute call is in progress and `CYC > 0` held at its last loop test. -/
  | running
  /-- A fatal error has stopped the core; only Reset leaves this state (R218). -/
  | faulted (cause : FaultCause)
  deriving DecidableEq, Repr

/-- What the host can do to the core (spec/00_scope.md R5, R6): its two transactions, and a direct write
of one memory cell or one register between transactions. -/
inductive HostMove where
  /-- The transaction Reset (spec/70_reset_and_hazards.md R240). -/
  | reset
  /-- The transaction Execute (spec/41_dispatch.md R130). -/
  | execute (budget : Nat)
  | writeMem (addr : Word) (v : Byte)
  | writePc (v : Word)
  | writeSp (v : Byte)
  | writeReg (r : Reg) (v : Byte)
  | writeP (v : Byte)
  deriving DecidableEq, Repr

/-- The memory `MEM` (R30): (address, byte) pairs with addresses strictly rising and no entry equal to
`unlistedByte`, which every address that is not listed reads as. -/
abbrev Memory := List Host.Cell

/-- The state of the core.  `pc` to `run` are the spec's, in the order of R20; `inbox` and `config` are
the MODEL's own (notes/assumptions/1.md and 2.md) and no instruction reads or writes `inbox` or writes
`config`. -/
structure State where
  /-- `PC`, the program counter (R21). -/
  pc : Word
  /-- `SP`, the offset of the next free cell of the stack page (R22). -/
  sp : Byte
  /-- `A`, the accumulator (R23). -/
  a : Byte
  /-- `X`, an index register (R23). -/
  x : Byte
  /-- `Y`, an index register (R23). -/
  y : Byte
  /-- `P`, the status-flag byte (R24 to R29). -/
  p : Byte
  /-- `MEM`, the one memory (R30). -/
  mem : Memory
  /-- `CYC`, the cycles remaining in the current Execute call, signed and unbounded (R31). -/
  cyc : Int
  /-- `RUN`, the run state and fault latch (R32). -/
  run : RunState
  /-- The host's moves that have not happened yet, the next one first. -/
  inbox : List HostMove
  /-- The two implementation parameters of R2. -/
  config : Config
  deriving DecidableEq, Repr

/-- A step that ends in `Host.Outcome.fault`.  No step does: the spec's one reachable fatal error leaves
a state it describes (`RUN = Faulted`), which is a next state (notes/assumptions/3.md). -/
inductive Fault where
  /-- Raised by nothing: an address outside 0 to 65535 reached the memory.  Safe: every address of the
  model is a `Word`, so the condition cannot arise (spec/60_exceptions.md R212). -/
  | outOfRangeAddress (addr : Nat)
  deriving DecidableEq, Repr

/-- A step that ends in `Host.Outcome.refused`. -/
inductive Refusal where
  /-- Raised by an arm of `exec` whose instruction has no meaning yet.  Safe.  No arm raises it. -/
  | notModelled (mnemonic : String)
  deriving DecidableEq, Repr

/-- What a meaning or a step answers. -/
abbrev Result := Host.Outcome State Fault Refusal

/-- The machine right after Reset (R34). -/
def State.reset : State where
  pc := resetPc
  sp := resetSp
  a := resetReg
  x := resetReg
  y := resetReg
  p := resetP
  mem := []
  cyc := 0
  run := .halted
  inbox := []
  config := defaultConfig

end Sys2Proof.Machine
end

