-- ==== Sys2Proof/Machine/Flags.lean ====
section
/-! DEFINITION. The status byte `P`: its bit positions, the four flag primitives and `SetZN`
(spec/10_state.md R24 to R27). -/

namespace Sys2Proof.Machine

/-- The bits of `P` by name (R24); `u` is the unused bit 5, an ordinary storage bit (R25). -/
inductive Flag where
  | c
  | z
  | i
  | d
  | b
  | u
  | v
  | n
  deriving DecidableEq, Repr

/-- The bit position of a flag: Carry 0, Zero 1, InterruptDisable 2, Decimal 3, Break 4, unused 5,
Overflow 6, Negative 7 (R24). -/
def Flag.pos : Flag → Nat
  | .c => 0
  | .z => 1
  | .i => 2
  | .d => 3
  | .b => 4
  | .u => 5
  | .v => 6
  | .n => 7

/-- The byte with only that flag's bit set. -/
def flagMask (f : Flag) : Byte := 1#8 <<< f.pos

/-- `IsFlagSet(P, b)` (R26). -/
def isFlagSet (p : Byte) (f : Flag) : Bool := p.getLsbD f.pos

/-- `SetFlag(b)`: `P | (1 << b)` (R26). -/
def setFlag (p : Byte) (f : Flag) : Byte := p ||| flagMask f

/-- `ClearFlag(b)`: `P & ~(1 << b)` (R26). -/
def clearFlag (p : Byte) (f : Flag) : Byte := p &&& ~~~(flagMask f)

/-- `ToggleFlag(b)`: `P ^ (1 << b)` (R26). -/
def toggleFlag (p : Byte) (f : Flag) : Byte := p ^^^ flagMask f

/-- Set the flag when the condition holds; otherwise leave it under `ZN_SET_ONLY = true` and clear it
under `ZN_SET_ONLY = false` (R27). -/
def flagFrom (setOnly : Bool) (p : Byte) (f : Flag) (cond : Bool) : Byte :=
  if cond then setFlag p f else if setOnly then p else clearFlag p f

/-- `SetZN(v)`: Zero from `v = 0`, then Negative from bit 7 of `v` (R27). -/
def setZN (cfg : Config) (p v : Byte) : Byte :=
  flagFrom cfg.znSetOnly (flagFrom cfg.znSetOnly p .z (v == 0#8)) .n (v.getLsbD 7)

end Sys2Proof.Machine
end

