-- ==== Sys2Proof/Syntax.lean ====
section
/-! DEFINITION. The instruction set: one constructor per row of spec/opcode_table.json
(spec/30_encoding.md R93). -/

namespace Sys2Proof

/-- The 41 instructions.  `d` is the operand byte of format F2 (immediate data, zero-page address or
zero-page pointer); `w` is the 16-bit operand of format F3 (spec/30_encoding.md R91, R92). -/
inductive Instr where
  /-- LDA imm (Immediate), spec/42_loads.md R151. -/
  | ldaImm (d : Byte)
  /-- LDA zp (ZeroPage), spec/42_loads.md R152. -/
  | ldaZp (d : Byte)
  /-- LDA zp,X (ZeroPage,X), spec/42_loads.md R153. -/
  | ldaZpX (d : Byte)
  /-- LDA abs (Absolute), spec/42_loads.md R154. -/
  | ldaAbs (w : Word)
  /-- LDA abs,X (Absolute,X), spec/42_loads.md R155. -/
  | ldaAbsX (w : Word)
  /-- LDA abs,Y (Absolute,Y), spec/42_loads.md R156. -/
  | ldaAbsY (w : Word)
  /-- LDA (ind,X) ((Indirect,X)), spec/42_loads.md R157. -/
  | ldaIndX (d : Byte)
  /-- LDA (ind),Y ((Indirect),Y), spec/42_loads.md R158. -/
  | ldaIndY (d : Byte)
  /-- LDX imm (Immediate), spec/42_loads.md R159. -/
  | ldxImm (d : Byte)
  /-- LDX zp (ZeroPage), spec/42_loads.md R160. -/
  | ldxZp (d : Byte)
  /-- LDX zp,Y (ZeroPage,Y), spec/42_loads.md R161. -/
  | ldxZpY (d : Byte)
  /-- LDX abs (Absolute), spec/42_loads.md R162. -/
  | ldxAbs (w : Word)
  /-- LDX abs,Y (Absolute,Y), spec/42_loads.md R163. -/
  | ldxAbsY (w : Word)
  /-- LDY imm (Immediate), spec/42_loads.md R164. -/
  | ldyImm (d : Byte)
  /-- LDY zp (ZeroPage), spec/42_loads.md R165. -/
  | ldyZp (d : Byte)
  /-- LDY zp,X (ZeroPage,X), spec/42_loads.md R166. -/
  | ldyZpX (d : Byte)
  /-- LDY abs (Absolute), spec/42_loads.md R167. -/
  | ldyAbs (w : Word)
  /-- LDY abs,X (Absolute,X), spec/42_loads.md R168. -/
  | ldyAbsX (w : Word)
  /-- STA zp (ZeroPage), spec/43_stores.md R171. -/
  | staZp (d : Byte)
  /-- STA zp,X (ZeroPage,X), spec/43_stores.md R172. -/
  | staZpX (d : Byte)
  /-- STA abs (Absolute), spec/43_stores.md R173. -/
  | staAbs (w : Word)
  /-- STA abs,X (Absolute,X), spec/43_stores.md R174. -/
  | staAbsX (w : Word)
  /-- STA abs,Y (Absolute,Y), spec/43_stores.md R175. -/
  | staAbsY (w : Word)
  /-- STA (ind,X) ((Indirect,X)), spec/43_stores.md R176. -/
  | staIndX (d : Byte)
  /-- STA (ind),Y ((Indirect),Y), spec/43_stores.md R177. -/
  | staIndY (d : Byte)
  /-- STX zp (ZeroPage), spec/43_stores.md R178. -/
  | stxZp (d : Byte)
  /-- STX zp,Y (ZeroPage,Y), spec/43_stores.md R179. -/
  | stxZpY (d : Byte)
  /-- STX abs (Absolute), spec/43_stores.md R180. -/
  | stxAbs (w : Word)
  /-- STY zp (ZeroPage), spec/43_stores.md R181. -/
  | styZp (d : Byte)
  /-- STY zp,X (ZeroPage,X), spec/43_stores.md R182. -/
  | styZpX (d : Byte)
  /-- STY abs (Absolute), spec/43_stores.md R183. -/
  | styAbs (w : Word)
  /-- TAX (Implied), spec/44_transfers.md R191. -/
  | tax
  /-- TXA (Implied), spec/44_transfers.md R192. -/
  | txa
  /-- TAY (Implied), spec/44_transfers.md R193. -/
  | tay
  /-- TYA (Implied), spec/44_transfers.md R194. -/
  | tya
  /-- TSX (Implied), spec/44_transfers.md R195. -/
  | tsx
  /-- TXS (Implied), spec/44_transfers.md R196. -/
  | txs
  /-- PHA (Implied), spec/45_stack.md R201. -/
  | pha
  /-- PHP (Implied), spec/45_stack.md R202. -/
  | php
  /-- PLA (Implied), spec/45_stack.md R203. -/
  | pla
  /-- PLP (Implied), spec/45_stack.md R204. -/
  | plp
  deriving DecidableEq, Repr

/-- The mnemonic of each instruction, letter for letter as spec/opcode_table.json has it. -/
def Instr.mnemonic : Instr → String
  | .ldaImm _ => "LDA_imm"
  | .ldaZp _ => "LDA_zp"
  | .ldaZpX _ => "LDA_zp_X"
  | .ldaAbs _ => "LDA_abs"
  | .ldaAbsX _ => "LDA_abs_X"
  | .ldaAbsY _ => "LDA_abs_Y"
  | .ldaIndX _ => "LDA__ind_X"
  | .ldaIndY _ => "LDA__ind__Y"
  | .ldxImm _ => "LDX_imm"
  | .ldxZp _ => "LDX_zp"
  | .ldxZpY _ => "LDX_zp_Y"
  | .ldxAbs _ => "LDX_abs"
  | .ldxAbsY _ => "LDX_abs_Y"
  | .ldyImm _ => "LDY_imm"
  | .ldyZp _ => "LDY_zp"
  | .ldyZpX _ => "LDY_zp_X"
  | .ldyAbs _ => "LDY_abs"
  | .ldyAbsX _ => "LDY_abs_X"
  | .staZp _ => "STA_zp"
  | .staZpX _ => "STA_zp_X"
  | .staAbs _ => "STA_abs"
  | .staAbsX _ => "STA_abs_X"
  | .staAbsY _ => "STA_abs_Y"
  | .staIndX _ => "STA__ind_X"
  | .staIndY _ => "STA__ind__Y"
  | .stxZp _ => "STX_zp"
  | .stxZpY _ => "STX_zp_Y"
  | .stxAbs _ => "STX_abs"
  | .styZp _ => "STY_zp"
  | .styZpX _ => "STY_zp_X"
  | .styAbs _ => "STY_abs"
  | .tax => "TAX"
  | .txa => "TXA"
  | .tay => "TAY"
  | .tya => "TYA"
  | .tsx => "TSX"
  | .txs => "TXS"
  | .pha => "PHA"
  | .php => "PHP"
  | .pla => "PLA"
  | .plp => "PLP"

end Sys2Proof
end

