-- ==== Sys2Proof/WellFormed.lean ====
section
/-! DEFINITION. Which byte sequences are an instruction of the core, by opcode and length
(spec/30_encoding.md R90, R93, R95).  Written from R93's table by LENGTH, apart from the decoder, so
that the two can be compared. -/

namespace Sys2Proof

/-- The opcodes of format F1: Implied, 1 byte (R90, R93). -/
def oneByteOpcodes : List Byte :=
  [0x08#8, 0x28#8, 0x48#8, 0x68#8, 0x8A#8, 0x98#8, 0x9A#8, 0xA8#8, 0xAA#8, 0xBA#8]

/-- The opcodes of format F2: Immediate, the zero-page modes and the two indirect modes, 2 bytes. -/
def twoByteOpcodes : List Byte :=
  [0x81#8, 0x84#8, 0x85#8, 0x86#8, 0x91#8, 0x94#8, 0x95#8, 0x96#8, 0xA0#8, 0xA1#8, 0xA2#8] ++
  [0xA4#8, 0xA5#8, 0xA6#8, 0xA9#8, 0xB1#8, 0xB4#8, 0xB5#8, 0xB6#8]

/-- The opcodes of format F3: the absolute modes, 3 bytes. -/
def threeByteOpcodes : List Byte :=
  [0x8C#8, 0x8D#8, 0x8E#8, 0x99#8, 0x9D#8, 0xAC#8, 0xAD#8, 0xAE#8, 0xB9#8, 0xBC#8, 0xBD#8, 0xBE#8]

/-- The 41 mapped opcode values; every other byte is an unknown opcode (R95). -/
def mappedOpcodes : List Byte := oneByteOpcodes ++ twoByteOpcodes ++ threeByteOpcodes

/-- The length in bytes that an opcode byte fixes, and `none` for an unknown opcode, whose length is
not defined (R90, R95). -/
def opcodeLength (op : Byte) : Option Nat :=
  if op ∈ oneByteOpcodes then some 1
  else if op ∈ twoByteOpcodes then some 2
  else if op ∈ threeByteOpcodes then some 3
  else none

/-- A byte sequence is exactly one instruction: its first byte is a mapped opcode and it has exactly
the bytes that opcode asks for (R90, R95).  The operand bytes are unconstrained: "every operand byte
value is legal for every mapped opcode" (spec/60_exceptions.md R210). -/
def wellFormedCode : List Byte → Bool
  | [] => false
  | op :: operands => opcodeLength op == some (operands.length + 1)

/-- Every instruction term is well formed: its operand fields are exactly as wide as the encoding's and
"every operand byte value is legal for every mapped opcode" (spec/60_exceptions.md R210). -/
def Instr.wellFormed (_ : Instr) : Bool := true

end Sys2Proof
end

