-- ==== Sys2Proof/Decode.lean ====
section
/-! DEFINITION. From bytes to instructions and back (spec/30_encoding.md R90 to R100): the byte-order
helpers, the decoder and its table, then the encoder. -/

namespace Sys2Proof

/-! ## Byte order and extension (spec/00_scope.md section 6, spec/20_memory.md R53) -/

/-- `{h, l}`: the 16-bit value with high byte `hi` and low byte `lo`. -/
def wordOf (hi lo : Byte) : Word := hi ++ lo

/-- `lo(w)`, bits 7 to 0. -/
def loByte (w : Word) : Byte := w.extractLsb' 0 8

/-- `hi(w)`, bits 15 to 8. -/
def hiByte (w : Word) : Byte := w.extractLsb' 8 8

/-- `zext_16(v)`. -/
def zext16 (v : Byte) : Word := v.setWidth 16

/-- `sext_16(v)`: the byte read as two's complement, −128 to 127. -/
def sext16 (v : Byte) : Word := v.signExtend 16

/-! ## The decoder -/

/-- How an opcode's operand bytes follow it (R91): none (F1), one byte (F2), or a 16-bit operand low
byte first (F3), each with the instruction it makes. -/
inductive Form where
  | implied (i : Instr)
  | oneByte (make : Byte → Instr)
  | twoBytes (make : Word → Instr)

/-- Why a byte sequence is not an instruction. -/
inductive DecodeReject where
  /-- There is no byte to decode. -/
  | noBytes
  /-- The first byte is not one of the 41 mapped values (R95). -/
  | unknownOpcode (op : Byte)
  /-- The opcode is mapped and the sequence ends before its operand does. -/
  | missingOperand (op : Byte)
  deriving DecidableEq, Repr

/-- R93, the rows of LDA. -/
def ldaForms : List (Byte × Form) :=
  [(0xA9#8, .oneByte .ldaImm),
   (0xA5#8, .oneByte .ldaZp),
   (0xB5#8, .oneByte .ldaZpX),
   (0xAD#8, .twoBytes .ldaAbs),
   (0xBD#8, .twoBytes .ldaAbsX),
   (0xB9#8, .twoBytes .ldaAbsY),
   (0xA1#8, .oneByte .ldaIndX),
   (0xB1#8, .oneByte .ldaIndY)]

/-- R93, the rows of LDX. -/
def ldxForms : List (Byte × Form) :=
  [(0xA2#8, .oneByte .ldxImm),
   (0xA6#8, .oneByte .ldxZp),
   (0xB6#8, .oneByte .ldxZpY),
   (0xAE#8, .twoBytes .ldxAbs),
   (0xBE#8, .twoBytes .ldxAbsY)]

/-- R93, the rows of LDY. -/
def ldyForms : List (Byte × Form) :=
  [(0xA0#8, .oneByte .ldyImm),
   (0xA4#8, .oneByte .ldyZp),
   (0xB4#8, .oneByte .ldyZpX),
   (0xAC#8, .twoBytes .ldyAbs),
   (0xBC#8, .twoBytes .ldyAbsX)]

/-- R93, the rows of STA. -/
def staForms : List (Byte × Form) :=
  [(0x85#8, .oneByte .staZp),
   (0x95#8, .oneByte .staZpX),
   (0x8D#8, .twoBytes .staAbs),
   (0x9D#8, .twoBytes .staAbsX),
   (0x99#8, .twoBytes .staAbsY),
   (0x81#8, .oneByte .staIndX),
   (0x91#8, .oneByte .staIndY)]

/-- R93, the rows of STX. -/
def stxForms : List (Byte × Form) :=
  [(0x86#8, .oneByte .stxZp),
   (0x96#8, .oneByte .stxZpY),
   (0x8E#8, .twoBytes .stxAbs)]

/-- R93, the rows of STY. -/
def styForms : List (Byte × Form) :=
  [(0x84#8, .oneByte .styZp),
   (0x94#8, .oneByte .styZpX),
   (0x8C#8, .twoBytes .styAbs)]

/-- R93, the rows of the six transfers. -/
def transferForms : List (Byte × Form) :=
  [(0xAA#8, .implied .tax),
   (0x8A#8, .implied .txa),
   (0xA8#8, .implied .tay),
   (0x98#8, .implied .tya),
   (0xBA#8, .implied .tsx),
   (0x9A#8, .implied .txs)]

/-- R93, the rows of the four stack instructions. -/
def stackForms : List (Byte × Form) :=
  [(0x48#8, .implied .pha),
   (0x08#8, .implied .php),
   (0x68#8, .implied .pla),
   (0x28#8, .implied .plp)]

/-- The opcode map of R93, 41 rows. -/
def decoderTable : List (Byte × Form) :=
  ldaForms ++ ldxForms ++ ldyForms ++ staForms ++ stxForms ++ styForms ++
  transferForms ++ stackForms

/-- Decode the instruction at the front of a byte sequence and give back the bytes after it.  The opcode
byte alone selects the row (R91, R97, R100) and operand bytes are never decoded. -/
def decode : List Byte → Except DecodeReject (Instr × List Byte)
  | [] => .error .noBytes
  | op :: rest =>
    match decoderTable.lookup op, rest with
    | none, _ => .error (.unknownOpcode op)
    | some (.implied i), rest => .ok (i, rest)
    | some (.oneByte make), d :: rest => .ok (make d, rest)
    | some (.twoBytes make), lo :: hi :: rest => .ok (make (wordOf hi lo), rest)
    | some _, _ => .error (.missingOperand op)

/-- The first three bytes of an instruction given as a number, bit 0 the least significant bit of the
first byte; bits from `nbits` up count as 0.  Three bytes is the longest instruction (R90). -/
def bytesOfNat (nbits w : Nat) : List Byte :=
  let v := w % 2 ^ nbits
  [BitVec.ofNat 8 v, BitVec.ofNat 8 (v / 2 ^ 8), BitVec.ofNat 8 (v / 2 ^ 16)]

/-- The instruction the decoder reads from the instruction whose bits are `w`. -/
def decodeTableWord (nbits w : Nat) : Option Instr :=
  match decode (bytesOfNat nbits w) with
  | .ok (i, _) => some i
  | .error _ => none

/-! ## The encoder -/

/-- The opcode byte of each instruction (the Encoding lines of R151 to R204). -/
def Instr.opcode : Instr → Byte
  | .ldaImm _ => 0xA9#8
  | .ldaZp _ => 0xA5#8
  | .ldaZpX _ => 0xB5#8
  | .ldaAbs _ => 0xAD#8
  | .ldaAbsX _ => 0xBD#8
  | .ldaAbsY _ => 0xB9#8
  | .ldaIndX _ => 0xA1#8
  | .ldaIndY _ => 0xB1#8
  | .ldxImm _ => 0xA2#8
  | .ldxZp _ => 0xA6#8
  | .ldxZpY _ => 0xB6#8
  | .ldxAbs _ => 0xAE#8
  | .ldxAbsY _ => 0xBE#8
  | .ldyImm _ => 0xA0#8
  | .ldyZp _ => 0xA4#8
  | .ldyZpX _ => 0xB4#8
  | .ldyAbs _ => 0xAC#8
  | .ldyAbsX _ => 0xBC#8
  | .staZp _ => 0x85#8
  | .staZpX _ => 0x95#8
  | .staAbs _ => 0x8D#8
  | .staAbsX _ => 0x9D#8
  | .staAbsY _ => 0x99#8
  | .staIndX _ => 0x81#8
  | .staIndY _ => 0x91#8
  | .stxZp _ => 0x86#8
  | .stxZpY _ => 0x96#8
  | .stxAbs _ => 0x8E#8
  | .styZp _ => 0x84#8
  | .styZpX _ => 0x94#8
  | .styAbs _ => 0x8C#8
  | .tax => 0xAA#8
  | .txa => 0x8A#8
  | .tay => 0xA8#8
  | .tya => 0x98#8
  | .tsx => 0xBA#8
  | .txs => 0x9A#8
  | .pha => 0x48#8
  | .php => 0x08#8
  | .pla => 0x68#8
  | .plp => 0x28#8

/-- The operand bytes of each instruction, a 16-bit operand low byte first (R91, R92). -/
def Instr.operandBytes : Instr → List Byte
  | .tax | .txa | .tay | .tya | .tsx | .txs | .pha | .php | .pla | .plp => []
  | .ldaImm d | .ldaZp d | .ldaZpX d | .ldaIndX d | .ldaIndY d | .ldxImm d | .ldxZp d
  | .ldxZpY d | .ldyImm d | .ldyZp d | .ldyZpX d | .staZp d | .staZpX d | .staIndX d
  | .staIndY d | .stxZp d | .stxZpY d | .styZp d | .styZpX d => [d]
  | .ldaAbs w | .ldaAbsX w | .ldaAbsY w | .ldxAbs w | .ldxAbsY w | .ldyAbs w | .ldyAbsX w
  | .staAbs w | .staAbsX w | .staAbsY w | .stxAbs w | .styAbs w => [loByte w, hiByte w]

/-- The bytes of an instruction: its opcode byte and then its operand bytes (R90). -/
def encode (i : Instr) : List Byte := i.opcode :: i.operandBytes

end Sys2Proof
end

