-- ==== Sys2Proof/Machine/Memory.lean ====
section
/-! DEFINITION. The memory block: `MemRead`, `MemWrite` and `Initialize` over the canonical list
(spec/20_memory.md R50 to R52). -/

namespace Sys2Proof.Machine

/-- The byte listed for address `k`, or `unlistedByte`. -/
def cellRead : Memory → Nat → Byte
  | [], _ => unlistedByte
  | (k', v) :: m, k => if k = k' then v else cellRead m k

/-- Put `v` at address `k` and keep the canonical form: a cell that gets `unlistedByte` is not listed. -/
def cellWrite : Memory → Nat → Byte → Memory
  | [], k, v => if v = unlistedByte then [] else [(k, v)]
  | (k', v') :: m, k, v =>
    if k < k' then
      if v = unlistedByte then (k', v') :: m else (k, v) :: (k', v') :: m
    else if k = k' then
      if v = unlistedByte then m else (k, v) :: m
    else (k', v') :: cellWrite m k v

/-- `MemRead(a, 1)`: the cell at `a`; the address decoder is the identity (R50, R51). -/
def memRead (m : Memory) (a : Word) : Byte := cellRead m a.toNat

/-- `MemWrite(a, 1, v)`: `MEM[a] <- v` (R51). -/
def memWrite (m : Memory) (a : Word) (v : Byte) : Memory := cellWrite m a.toNat v

/-- `Initialize()`: every cell becomes 0x00 (R51), so nothing is listed. -/
def memInitialize : Memory := []

/-- The canonical form: addresses strictly rising and below 65536, and no entry equal to what an
unlisted address reads as. -/
abbrev Memory.wf (m : Memory) : Prop :=
  m.Pairwise (fun c d => c.1 < d.1) ∧ ∀ c ∈ m, c.1 < 65536 ∧ c.2 ≠ unlistedByte

end Sys2Proof.Machine
end

