-- ==== Sys2Proof/Machine/Ops.lean ====
section
/-! DEFINITION. The named operations over the state: the elementary updates, the seven bus primitives
(spec/20_memory.md R58 to R64), raising a fault (spec/60_exceptions.md R211, R216) and Reset. -/

namespace Sys2Proof.Machine

/-! ## Elementary updates -/

/-- The value of a general register (R23). -/
def readReg : Reg → State → Byte
  | .a, s => s.a
  | .x, s => s.x
  | .y, s => s.y

/-- `r <- v` for a general register (R23). -/
def writeReg : Reg → Byte → State → State
  | .a, v, s => { s with a := v }
  | .x, v, s => { s with x := v }
  | .y, v, s => { s with y := v }

/-- `SP <- v` (R22). -/
def setSp (v : Byte) (s : State) : State := { s with sp := v }

/-- `P <- v`, all eight bits (R24, R25). -/
def setP (v : Byte) (s : State) : State := { s with p := v }

/-- `PC <- (PC + n) mod 65536` (R21, R66). -/
def advancePc (n : Word) (s : State) : State := { s with pc := s.pc + n }

/-- `Tick(n)`: `CYC <- CYC - n`, with no other effect (spec/41_dispatch.md R138, R73). -/
def tick (n : Nat) (s : State) : State := { s with cyc := s.cyc - n }

/-- `MemWrite(a, 1, v)` on the state's memory (R51). -/
def storeCell (a : Word) (v : Byte) (s : State) : State := { s with mem := memWrite s.mem a v }

/-- `RUN <- r` (R32). -/
def setRun (r : RunState) (s : State) : State := { s with run := r }

/-- `SetZN` on the state's status byte (R27). -/
def applyZN (v : Byte) (s : State) : State := setP (setZN s.config s.p v) s

/-! ## The bus primitives: each answers its value and the state after it -/

/-- `FetchByte()` (R58). -/
def fetchByte (s : State) : Byte × State :=
  (memRead s.mem s.pc, tick 1 (advancePc 1 s))

/-- `FetchWord()`: low byte first (R59). -/
def fetchWord (s : State) : Word × State :=
  (wordOf (memRead s.mem (s.pc + 1)) (memRead s.mem s.pc), tick 2 (advancePc 2 s))

/-- `ReadByte(a)` (R60). -/
def readByte (a : Word) (s : State) : Byte × State :=
  (memRead s.mem a, tick 1 s)

/-- `ReadWord(a)`: the second byte is at `a + 1` computed at 16 bits (R61). -/
def readWord (a : Word) (s : State) : Word × State :=
  (wordOf (memRead s.mem (a + 1)) (memRead s.mem a), tick 2 s)

/-- Where the high byte of the zero-page pointer at `p` is: at `p + 1` computed at 16 bits, or at
`(p + 1) mod 256` under `ZP_PTR_WRAP = true` (R61). -/
def pointerHighAddr (wrap : Bool) (p : Byte) : Word :=
  if wrap then zext16 (p + 1) else zext16 p + 1

/-- The word read of a zero-page pointer (R61, R121, R122): `ReadWord(p)`, but for the place of the high
byte, which the parameter decides. -/
def readPointer (p : Byte) (s : State) : Word × State :=
  (wordOf (memRead s.mem (pointerHighAddr s.config.zpPtrWrap p)) (memRead s.mem (zext16 p)), tick 2 s)

/-- `WriteByte(a, v)` (R62). -/
def writeByte (a : Word) (v : Byte) (s : State) : State := tick 1 (storeCell a v s)

/-- The stack cell that `SP` designates, `0x0100 + SP` (R22). -/
def stackAddr (sp : Byte) : Word := 0x0100#16 + zext16 sp

/-- `PushToStack(v)`: write, then decrement `SP` modulo 256 (R63). -/
def pushToStack (v : Byte) (s : State) : State :=
  tick 1 (setSp (s.sp - 1) (storeCell (stackAddr s.sp) v s))

/-- `PopFromStack()`: increment `SP` modulo 256, then read (R64). -/
def popFromStack (s : State) : Byte × State :=
  let s1 := setSp (s.sp + 1) s
  (memRead s1.mem (stackAddr s1.sp), tick 1 s1)

/-! ## Faults and Reset -/

/-- Fault entry, for every cause: latch `RUN` and change nothing else.  No vector is read, nothing is
pushed, `PC` is not redirected and no flag changes (R211, R212, R216).  There is no return from a fault
(R217): the one way out is `performReset` (R218). -/
def raise (cause : FaultCause) (s : State) : State := setRun (.faulted cause) s

/-- The transaction Reset (spec/70_reset_and_hazards.md R240).  The parameters and the host's moves that
have not happened yet stay. -/
def performReset (s : State) : State :=
  { s with
    pc := resetPc, sp := resetSp, a := resetReg, x := resetReg, y := resetReg, p := resetP,
    mem := memInitialize, cyc := 0, run := .halted }

end Sys2Proof.Machine
end

