-- ==== Sys2Proof/Machine/Operands.lean ====
section
/-! DEFINITION. The addressing-mode resolvers (spec/40_addressing.md R110 to R123).  Each takes the
instruction's operand, which the decoder read from the bytes at `PC`, and a state whose `PC` is at byte
1 of the instruction; it answers the effective address and the state with the operand consumed and the
mode's cycles charged.  Implied mode (R111) has no resolver. -/

namespace Sys2Proof.Machine

/-- The effect on the state of fetching a one-byte operand. -/
def consumeByte (s : State) : State := (fetchByte s).2

/-- The effect on the state of fetching a two-byte operand. -/
def consumeWord (s : State) : State := (fetchWord s).2

/-- `page(a)`, `a & 0xFF00`. -/
def page (a : Word) : Word := a &&& 0xFF00#16

/-- Whether indexing crossed a page (R119). -/
def crossed (base ea : Word) : Bool := page base != page ea

/-- `IndexPenalty`: a fixed-cycle caller always pays one cycle, a variable-cycle caller pays it when
the page is crossed (R119). -/
def indexPenalty (fixed : Bool) (base ea : Word) (s : State) : State :=
  if fixed || crossed base ea then tick 1 s else s

/-- `OperandImmediate` (R112). -/
def operandImmediate (d : Byte) (s : State) : Byte × State := (d, consumeByte s)

/-- `AddrZeroPage` (R113). -/
def addrZeroPage (d : Byte) (s : State) : Word × State := (zext16 d, consumeByte s)

/-- `AddrZeroPageX`: 8-bit wraparound, one cycle for the index addition (R114). -/
def addrZeroPageX (d : Byte) (s : State) : Word × State :=
  (zext16 (d + s.x), tick 1 (consumeByte s))

/-- `AddrZeroPageY`: the index is `Y` (R115). -/
def addrZeroPageY (d : Byte) (s : State) : Word × State :=
  (zext16 (d + s.y), tick 1 (consumeByte s))

/-- `AddrAbsolute` (R116). -/
def addrAbsolute (w : Word) (s : State) : Word × State := (w, consumeWord s)

/-- The tail that Absolute,X, Absolute,Y and (Indirect),Y share: add the index at 16 bits and charge
the penalty (R119). -/
def indexed (fixed : Bool) (base : Word) (index : Byte) (s : State) : Word × State :=
  let ea := base + zext16 index
  (ea, indexPenalty fixed base ea s)

/-- `AddrAbsoluteX` (R117). -/
def addrAbsoluteX (fixed : Bool) (w : Word) (s : State) : Word × State :=
  indexed fixed w s.x (consumeWord s)

/-- `AddrAbsoluteY` (R118). -/
def addrAbsoluteY (fixed : Bool) (w : Word) (s : State) : Word × State :=
  indexed fixed w s.y (consumeWord s)

/-- `AddrIndirect`: the pointer read does not wrap inside a page (R120).  No instruction uses it. -/
def addrIndirect (w : Word) (s : State) : Word × State := readWord w (consumeWord s)

/-- `AddrIndirectX`: the pointer address wraps inside page 0 (R121). -/
def addrIndirectX (d : Byte) (s : State) : Word × State :=
  readPointer (d + s.x) (tick 1 (consumeByte s))

/-- `AddrIndirectY`: read the pointer, then add `Y` at 16 bits (R122). -/
def addrIndirectY (fixed : Bool) (d : Byte) (s : State) : Word × State :=
  let ptr := readPointer d (consumeByte s)
  indexed fixed ptr.1 s.y ptr.2

/-- `AddrRelative`: the displacement is added to `PC` after the operand (R123).  No instruction uses
it. -/
def addrRelative (d : Byte) (s : State) : Word × State :=
  let s1 := tick 1 (consumeByte s)
  (s1.pc + sext16 d, s1)

end Sys2Proof.Machine
end

