-- ==== Sys2Proof/Machine/Loads.lean ====
section
/-! DEFINITION. The loads LDA, LDX and LDY (spec/42_loads.md R150 to R168). -/

namespace Sys2Proof.Machine

/-- What every load does once its operand byte is there: write the register, then `SetZN` of the value
(R150, R137 (c) and (d)). -/
def loadValue (r : Reg) (operand : Byte × State) : Result :=
  .next (applyZN operand.1 (writeReg r operand.1 operand.2))

/-- A load from memory: read the byte at the effective address (R150, R137 (b)). -/
def load (r : Reg) (ea : Word × State) : Result := loadValue r (readByte ea.1 ea.2)

/-- LDA Immediate (R151). -/
def execLdaImm (d : Byte) (s : State) : Result := loadValue .a (operandImmediate d s)

/-- LDA ZeroPage (R152). -/
def execLdaZp (d : Byte) (s : State) : Result := load .a (addrZeroPage d s)

/-- LDA ZeroPage,X (R153). -/
def execLdaZpX (d : Byte) (s : State) : Result := load .a (addrZeroPageX d s)

/-- LDA Absolute (R154). -/
def execLdaAbs (w : Word) (s : State) : Result := load .a (addrAbsolute w s)

/-- LDA Absolute,X (R155). -/
def execLdaAbsX (w : Word) (s : State) : Result := load .a (addrAbsoluteX false w s)

/-- LDA Absolute,Y (R156). -/
def execLdaAbsY (w : Word) (s : State) : Result := load .a (addrAbsoluteY false w s)

/-- LDA (Indirect,X) (R157). -/
def execLdaIndX (d : Byte) (s : State) : Result := load .a (addrIndirectX d s)

/-- LDA (Indirect),Y (R158). -/
def execLdaIndY (d : Byte) (s : State) : Result := load .a (addrIndirectY false d s)

/-- LDX Immediate (R159). -/
def execLdxImm (d : Byte) (s : State) : Result := loadValue .x (operandImmediate d s)

/-- LDX ZeroPage (R160). -/
def execLdxZp (d : Byte) (s : State) : Result := load .x (addrZeroPage d s)

/-- LDX ZeroPage,Y (R161). -/
def execLdxZpY (d : Byte) (s : State) : Result := load .x (addrZeroPageY d s)

/-- LDX Absolute (R162). -/
def execLdxAbs (w : Word) (s : State) : Result := load .x (addrAbsolute w s)

/-- LDX Absolute,Y (R163). -/
def execLdxAbsY (w : Word) (s : State) : Result := load .x (addrAbsoluteY false w s)

/-- LDY Immediate (R164). -/
def execLdyImm (d : Byte) (s : State) : Result := loadValue .y (operandImmediate d s)

/-- LDY ZeroPage (R165). -/
def execLdyZp (d : Byte) (s : State) : Result := load .y (addrZeroPage d s)

/-- LDY ZeroPage,X (R166). -/
def execLdyZpX (d : Byte) (s : State) : Result := load .y (addrZeroPageX d s)

/-- LDY Absolute (R167). -/
def execLdyAbs (w : Word) (s : State) : Result := load .y (addrAbsolute w s)

/-- LDY Absolute,X (R168). -/
def execLdyAbsX (w : Word) (s : State) : Result := load .y (addrAbsoluteX false w s)

end Sys2Proof.Machine
end

