-- ==== Sys2Proof/Machine/Stack.lean ====
section
/-! DEFINITION. The stack instructions (spec/45_stack.md R200 to R204). -/

namespace Sys2Proof.Machine

/-- A push: one internal cycle, then `PushToStack` (R200). -/
def push (v : Byte) (s : State) : Result := .next (pushToStack v (tick 1 s))

/-- A pull: two internal cycles, then `PopFromStack` (R200). -/
def pull (s : State) : Byte × State := popFromStack (tick 2 s)

/-- PHA (R201). -/
def execPha (s : State) : Result := push s.a s

/-- PHP: all eight bits of `P` as they stand (R202). -/
def execPhp (s : State) : Result := push s.p s

/-- PLA: the byte pulled goes to `A`, then `SetZN` (R203). -/
def execPla (s : State) : Result :=
  let r := pull s
  .next (applyZN r.1 (writeReg .a r.1 r.2))

/-- PLP: the byte pulled replaces all of `P`; no `SetZN` (R204). -/
def execPlp (s : State) : Result :=
  let r := pull s
  .next (setP r.1 r.2)

end Sys2Proof.Machine
end

