-- ==== Sys2Proof/Machine/Stores.lean ====
section
/-! DEFINITION. The stores STA, STX and STY (spec/43_stores.md R170 to R183). -/

namespace Sys2Proof.Machine

/-- What every store does: write the source register to the effective address; no flag changes (R170). -/
def store (r : Reg) (ea : Word × State) : Result :=
  .next (writeByte ea.1 (readReg r ea.2) ea.2)

/-- STA ZeroPage (R171). -/
def execStaZp (d : Byte) (s : State) : Result := store .a (addrZeroPage d s)

/-- STA ZeroPage,X (R172). -/
def execStaZpX (d : Byte) (s : State) : Result := store .a (addrZeroPageX d s)

/-- STA Absolute (R173). -/
def execStaAbs (w : Word) (s : State) : Result := store .a (addrAbsolute w s)

/-- STA Absolute,X (R174). -/
def execStaAbsX (w : Word) (s : State) : Result := store .a (addrAbsoluteX true w s)

/-- STA Absolute,Y (R175). -/
def execStaAbsY (w : Word) (s : State) : Result := store .a (addrAbsoluteY true w s)

/-- STA (Indirect,X) (R176). -/
def execStaIndX (d : Byte) (s : State) : Result := store .a (addrIndirectX d s)

/-- STA (Indirect),Y (R177). -/
def execStaIndY (d : Byte) (s : State) : Result := store .a (addrIndirectY true d s)

/-- STX ZeroPage (R178). -/
def execStxZp (d : Byte) (s : State) : Result := store .x (addrZeroPage d s)

/-- STX ZeroPage,Y (R179). -/
def execStxZpY (d : Byte) (s : State) : Result := store .x (addrZeroPageY d s)

/-- STX Absolute (R180). -/
def execStxAbs (w : Word) (s : State) : Result := store .x (addrAbsolute w s)

/-- STY ZeroPage (R181). -/
def execStyZp (d : Byte) (s : State) : Result := store .y (addrZeroPage d s)

/-- STY ZeroPage,X (R182). -/
def execStyZpX (d : Byte) (s : State) : Result := store .y (addrZeroPageX d s)

/-- STY Absolute (R183). -/
def execStyAbs (w : Word) (s : State) : Result := store .y (addrAbsolute w s)

end Sys2Proof.Machine
end

