-- ==== Sys2Proof/Machine/Transfers.lean ====
section
/-! DEFINITION. The register transfers (spec/44_transfers.md R190 to R196). -/

namespace Sys2Proof.Machine

/-- A transfer into a general register: one internal cycle, the copy, then `SetZN` of the value moved
(R190). -/
def transferTo (r : Reg) (v : Byte) (s : State) : Result :=
  .next (applyZN v (writeReg r v (tick 1 s)))

/-- TAX (R191). -/
def execTax (s : State) : Result := transferTo .x s.a s

/-- TXA (R192). -/
def execTxa (s : State) : Result := transferTo .a s.x s

/-- TAY (R193). -/
def execTay (s : State) : Result := transferTo .y s.a s

/-- TYA (R194). -/
def execTya (s : State) : Result := transferTo .a s.y s

/-- TSX: the register `SP` itself, not the stack (R195). -/
def execTsx (s : State) : Result := transferTo .x s.sp s

/-- TXS: no flag changes (R196). -/
def execTxs (s : State) : Result := .next (setSp s.x (tick 1 s))

end Sys2Proof.Machine
end

