-- ==== Sys2Proof/Machine/Fetch.lean ====
section
/-! DEFINITION. The instruction's bytes at `PC`, and placing an instruction there
(spec/30_encoding.md R91, spec/20_memory.md R66 and R70). -/

namespace Sys2Proof.Machine

/-- The three bytes at `PC`, `PC + 1` and `PC + 2` modulo 65536: the longest instruction there can be.
Which of them an instruction has is the decoder's to say; reading the others has no effect (R51). -/
def instructionBytes (s : State) : List Byte :=
  [memRead s.mem s.pc, memRead s.mem (s.pc + 1), memRead s.mem (s.pc + 2)]

/-- The instruction at `PC`, or `none` where the byte there is an unknown opcode (R100). -/
def nextInstr (s : State) : Option Instr :=
  match decode (instructionBytes s) with
  | .ok (i, _) => some i
  | .error _ => none

/-- Store bytes at consecutive addresses modulo 65536. -/
def placeBytes : List Byte → Word → Memory → Memory
  | [], _, m => m
  | b :: bs, a, m => placeBytes bs (a + 1) (memWrite m a b)

/-- The host's set-up that makes the next step run the instruction whose bits are `w`: its bytes at `PC`,
and an Execute call in progress with at least one cycle left. -/
def placeInstruction (nbits w : Nat) (s : State) : State :=
  { s with
    mem := placeBytes (bytesOfNat nbits w) s.pc s.mem
    cyc := if 0 < s.cyc then s.cyc else 1
    run := .running }

end Sys2Proof.Machine
end

