-- ==== Sys2Proof/Machine/HostMoves.lean ====
section
/-! DEFINITION. What the host's moves do to a core that is not Running (spec/00_scope.md R5, R6). -/

namespace Sys2Proof.Machine

/-- The start of the transaction Execute: nothing while Faulted; otherwise load `CYC` with the budget and
make the first loop test (spec/41_dispatch.md R130, R132; spec/60_exceptions.md R218). -/
def beginExecute (budget : Nat) (s : State) : State :=
  match s.run with
  | .faulted _ => s
  | _ => { s with cyc := budget, run := if 0 < budget then .running else .halted }

/-- One move of the host.  A direct write costs no cycles (R65), and may not touch `CYC` or `RUN`
(decision D16); a write to `PC` while Faulted does not clear the latch (R218). -/
def applyHostMove : HostMove → State → State
  | .reset, s => performReset s
  | .execute budget, s => beginExecute budget s
  | .writeMem a v, s => storeCell a v s
  | .writePc v, s => { s with pc := v }
  | .writeSp v, s => setSp v s
  | .writeReg r v, s => writeReg r v s
  | .writeP v, s => setP v s

/-- A core that is not Running: the host's next move happens; with none, nothing changes
(spec/60_exceptions.md R224). -/
def stepNotRunning (s : State) : State :=
  match s.inbox with
  | [] => s
  | m :: rest => applyHostMove m { s with inbox := rest }

end Sys2Proof.Machine
end

