-- ==== Sys2Proof/Machine/Execute.lean ====
section
/-! DEFINITION. One instruction and the Execute loop (spec/41_dispatch.md R130 to R139). -/

namespace Sys2Proof.Machine

/-- `Step()`: fetch the opcode byte; raise UnknownOpcode with the address it came from, or perform the
instruction (R131). -/
def runInstruction (s : State) : Result :=
  let fetched := fetchByte s
  match nextInstr s with
  | none => .next (raise (.unknownOpcode fetched.1 s.pc) fetched.2)
  | some i => exec i fetched.2

/-- The loop's end after one instruction: a fault ends the call at once, else the loop test makes the core
Running or Halted (R130, R132). -/
def afterInstruction (s : State) : State :=
  match s.run with
  | .faulted _ => s
  | _ => setRun (if 0 < s.cyc then .running else .halted) s

/-- One turn of the Execute loop, at a state where the call is in progress.  The test comes first, as the
loop is `while CYC > 0`; a reached Running state always passes it (notes/assumptions/12.md). -/
def stepRunning (s : State) : Result :=
  if 0 < s.cyc then
    match runInstruction s with
    | .next t => .next (afterInstruction t)
    | .fault r => .fault r
    | .refused r => .refused r
  else .next (setRun .halted s)

/-- The loop of R130 with a bound on its turns. -/
def executeLoop : Nat → State → Result
  | 0, s => .next s
  | turns + 1, s =>
    if 0 < s.cyc then
      match runInstruction (setRun .running s) with
      | .next t =>
        match t.run with
        | .faulted _ => .next t
        | _ => executeLoop turns t
      | .fault r => .fault r
      | .refused r => .refused r
    else .next (setRun .halted s)

/-- `Execute(budget)` as ONE transaction, written from R130's text.  `budget` instructions and the last
loop test are all the turns there can be (R139).  `step` makes the same transaction turn by turn. -/
def execute (budget : Nat) (s : State) : Result :=
  match s.run with
  | .faulted _ => .next s
  | _ => executeLoop (budget + 1) { s with cyc := budget }

end Sys2Proof.Machine
end

