-- ==== Sys2Proof/Machine/Reference.lean ====
section
/-! DEFINITION. A second reading of `Step()`, kept apart from the decoder, the resolvers and the
meanings: the opcode table as data (spec/30_encoding.md R93) and an interpreter of its rows written from
the pseudocode of spec/40_addressing.md and spec/41_dispatch.md, which fetches every operand byte from
memory at the moment the pseudocode does.  The machine does not use it; obligations compare the machine
with it. -/

namespace Sys2Proof.Machine.Reference

/-- The addressing modes of R110 to R123. -/
inductive Mode where
  | implied
  | immediate
  | zeroPage
  | zeroPageX
  | zeroPageY
  | absolute
  | absoluteX
  | absoluteY
  | indirectX
  | indirectY
  deriving DecidableEq, Repr

/-- The operations of the four families (spec/00_scope.md R3). -/
inductive Operation where
  | load (r : Reg)
  | store (r : Reg)
  | tax
  | txa
  | tay
  | tya
  | tsx
  | txs
  | pha
  | php
  | pla
  | plp
  deriving DecidableEq, Repr

/-- A row of R93: the opcode byte, the operation, the mode and the base cycle count. -/
structure Row where
  code : Byte
  op : Operation
  mode : Mode
  base : Nat
  deriving DecidableEq, Repr

/-- R93: the loads. -/
def loadRows : List Row :=
  [⟨0xA9#8, .load .a, .immediate, 2⟩,
   ⟨0xA5#8, .load .a, .zeroPage, 3⟩,
   ⟨0xB5#8, .load .a, .zeroPageX, 4⟩,
   ⟨0xAD#8, .load .a, .absolute, 4⟩,
   ⟨0xBD#8, .load .a, .absoluteX, 4⟩,
   ⟨0xB9#8, .load .a, .absoluteY, 4⟩,
   ⟨0xA1#8, .load .a, .indirectX, 6⟩,
   ⟨0xB1#8, .load .a, .indirectY, 5⟩,
   ⟨0xA2#8, .load .x, .immediate, 2⟩,
   ⟨0xA6#8, .load .x, .zeroPage, 3⟩,
   ⟨0xB6#8, .load .x, .zeroPageY, 4⟩,
   ⟨0xAE#8, .load .x, .absolute, 4⟩,
   ⟨0xBE#8, .load .x, .absoluteY, 4⟩,
   ⟨0xA0#8, .load .y, .immediate, 2⟩,
   ⟨0xA4#8, .load .y, .zeroPage, 3⟩,
   ⟨0xB4#8, .load .y, .zeroPageX, 4⟩,
   ⟨0xAC#8, .load .y, .absolute, 4⟩,
   ⟨0xBC#8, .load .y, .absoluteX, 4⟩]

/-- R93: the stores. -/
def storeRows : List Row :=
  [⟨0x85#8, .store .a, .zeroPage, 3⟩,
   ⟨0x95#8, .store .a, .zeroPageX, 4⟩,
   ⟨0x8D#8, .store .a, .absolute, 4⟩,
   ⟨0x9D#8, .store .a, .absoluteX, 5⟩,
   ⟨0x99#8, .store .a, .absoluteY, 5⟩,
   ⟨0x81#8, .store .a, .indirectX, 6⟩,
   ⟨0x91#8, .store .a, .indirectY, 6⟩,
   ⟨0x86#8, .store .x, .zeroPage, 3⟩,
   ⟨0x96#8, .store .x, .zeroPageY, 4⟩,
   ⟨0x8E#8, .store .x, .absolute, 4⟩,
   ⟨0x84#8, .store .y, .zeroPage, 3⟩,
   ⟨0x94#8, .store .y, .zeroPageX, 4⟩,
   ⟨0x8C#8, .store .y, .absolute, 4⟩]

/-- R93: the transfers and the stack instructions. -/
def impliedRows : List Row :=
  [⟨0xAA#8, .tax, .implied, 2⟩,
   ⟨0x8A#8, .txa, .implied, 2⟩,
   ⟨0xA8#8, .tay, .implied, 2⟩,
   ⟨0x98#8, .tya, .implied, 2⟩,
   ⟨0xBA#8, .tsx, .implied, 2⟩,
   ⟨0x9A#8, .txs, .implied, 2⟩,
   ⟨0x48#8, .pha, .implied, 3⟩,
   ⟨0x08#8, .php, .implied, 3⟩,
   ⟨0x68#8, .pla, .implied, 4⟩,
   ⟨0x28#8, .plp, .implied, 4⟩]

/-- The opcode table of R93, 41 rows. -/
def opcodeTable : List Row := loadRows ++ storeRows ++ impliedRows

/-- The row whose opcode byte is `op` (R100). -/
def lookup (op : Byte) : Option Row := opcodeTable.find? (fun row => row.code == op)

/-- The number of operand bytes each mode fetches (R90). -/
def Mode.operandLength : Mode → Nat
  | .implied => 0
  | .immediate | .zeroPage | .zeroPageX | .zeroPageY | .indirectX | .indirectY => 1
  | .absolute | .absoluteX | .absoluteY => 2

/-- The indexing of R117, R118 and R122: `ea <- (base + zext_16(index)) mod 65536`, then one cycle if
the caller is fixed-cycle or `page(base) != page(ea)` (R119). -/
def addIndex (fixed : Bool) (base : Word) (index : Byte) (s : State) : Word × State :=
  let ea := base + zext16 index
  if fixed then (ea, tick 1 s)
  else if (base &&& 0xFF00#16) ≠ (ea &&& 0xFF00#16) then (ea, tick 1 s)
  else (ea, s)

/-- The pointer read of R121 and R122 under either setting of `ZP_PTR_WRAP` (R61): low byte, then high
byte, one cycle each. -/
def pointerAt (p : Byte) (s : State) : Word × State :=
  let lo := readByte (zext16 p) s
  let next := if s.config.zpPtrWrap then zext16 (p + 1) else zext16 p + 1
  let hi := readByte next lo.2
  (wordOf hi.1 lo.1, hi.2)

/-- `AddrX()` of R113 to R122: the effective address of a mode, with the operand fetched from memory at
`PC`.  The modes without an address are not asked for. -/
def resolve (fixed : Bool) (mode : Mode) (s : State) : Word × State :=
  match mode with
  | .implied | .immediate => (0, s)
  | .zeroPage =>
    let d := fetchByte s
    (zext16 d.1, d.2)
  | .zeroPageX =>
    let d := fetchByte s
    (zext16 (d.1 + d.2.x), tick 1 d.2)
  | .zeroPageY =>
    let d := fetchByte s
    (zext16 (d.1 + d.2.y), tick 1 d.2)
  | .absolute => fetchWord s
  | .absoluteX =>
    let w := fetchWord s
    addIndex fixed w.1 w.2.x w.2
  | .absoluteY =>
    let w := fetchWord s
    addIndex fixed w.1 w.2.y w.2
  | .indirectX =>
    let d := fetchByte s
    let s1 := tick 1 d.2
    pointerAt (d.1 + s1.x) s1
  | .indirectY =>
    let d := fetchByte s
    let base := pointerAt d.1 d.2
    addIndex fixed base.1 base.2.y base.2

/-- "Perform I" in the order of R137, for a state just after the opcode fetch. -/
def perform (row : Row) (s : State) : State :=
  match row.op with
  | .load r =>
    let m :=
      match row.mode with
      | .immediate => fetchByte s
      | mode =>
        let ea := resolve false mode s
        readByte ea.1 ea.2
    applyZN m.1 (writeReg r m.1 m.2)
  | .store r =>
    let ea := resolve true row.mode s
    writeByte ea.1 (readReg r ea.2) ea.2
  | .tax =>
    let s1 := tick 1 s
    applyZN s1.a { s1 with x := s1.a }
  | .txa =>
    let s1 := tick 1 s
    applyZN s1.x { s1 with a := s1.x }
  | .tay =>
    let s1 := tick 1 s
    applyZN s1.a { s1 with y := s1.a }
  | .tya =>
    let s1 := tick 1 s
    applyZN s1.y { s1 with a := s1.y }
  | .tsx =>
    let s1 := tick 1 s
    applyZN s1.sp { s1 with x := s1.sp }
  | .txs =>
    let s1 := tick 1 s
    { s1 with sp := s1.x }
  | .pha =>
    let s1 := tick 1 s
    pushToStack s1.a s1
  | .php =>
    let s1 := tick 1 s
    pushToStack s1.p s1
  | .pla =>
    let pulled := popFromStack (tick 2 s)
    applyZN pulled.1 { pulled.2 with a := pulled.1 }
  | .plp =>
    let pulled := popFromStack (tick 2 s)
    { pulled.2 with p := pulled.1 }

/-- `Step()` (R131): `a0 <- PC`, fetch the opcode byte, then raise UnknownOpcode or perform the row. -/
def referenceStep (s : State) : State :=
  let a0 := s.pc
  let op := fetchByte s
  match lookup op.1 with
  | none => raise (.unknownOpcode op.1 a0) op.2
  | some row => perform row op.2

/-- The 16-bit base address and the index that a row adds to it, read from the instruction at `PC` (R117,
R118, R122); `none` for a row that adds no index at 16 bits. -/
def indexedBase (row : Row) (s : State) : Option (Word × Byte) :=
  match row.mode with
  | .absoluteX => some (wordOf (memRead s.mem (s.pc + 2)) (memRead s.mem (s.pc + 1)), s.x)
  | .absoluteY => some (wordOf (memRead s.mem (s.pc + 2)) (memRead s.mem (s.pc + 1)), s.y)
  | .indirectY => some ((pointerAt (memRead s.mem (s.pc + 1)) s).1, s.y)
  | _ => none

/-- The "+p" of R93 and R249: 1 for an indexed load whose address crosses a page, else 0. -/
def pagePenalty (row : Row) (s : State) : Nat :=
  match row.op, indexedBase row s with
  | .load _, some (base, index) =>
    if (base &&& 0xFF00#16) = ((base + zext16 index) &&& 0xFF00#16) then 0 else 1
  | _, _ => 0

/-- The total cost in cycles of the instruction of a row at `PC` (R249). -/
def totalCycles (row : Row) (s : State) : Nat := row.base + pagePenalty row s

end Sys2Proof.Machine.Reference
end

