-- ==== Sys2Proof/Safety.lean ====
section
/-! DEFINITION. What holds of every reached state, and what counts as a safe run. -/

namespace Sys2Proof.Machine

/-- The one fault a step can latch: an opcode byte that is not mapped (spec/60_exceptions.md R211;
R212's fault is unreachable). -/
def FaultCause.genuine : FaultCause → Prop
  | .unknownOpcode op _ => op ∉ mappedOpcodes
  | .outOfRangeAddress => False

/-- What the meter can hold in each run state: Running means `CYC > 0` at the last loop test (R32); a
halted core's meter is in −5 to 0 (spec/41_dispatch.md R133, R139); a fault is met with at least one
cycle left before its fetch (R139). -/
def meterFits : RunState → Int → Prop
  | .running, cyc => 0 < cyc
  | .halted, cyc => -5 ≤ cyc ∧ cyc ≤ 0
  | .faulted cause, cyc => 0 ≤ cyc ∧ cause.genuine

/-- The invariant of the machine: memory is in canonical form with every address below 65536, and the
meter fits the run state. -/
structure State.Inv (s : State) : Prop where
  memory : s.mem.wf
  meter : meterFits s.run s.cyc

/-- The core has not stopped on a fatal error (spec/10_state.md R32). -/
def State.unfaulted (s : State) : Bool :=
  match s.run with
  | .faulted _ => false
  | _ => true

/-- `k` steps of the machine, stopping at the first that is not a next state: `Host.Core.run` of the core,
over the model's own `State`. -/
def runSteps : Nat → State → Result
  | 0, s => .next s
  | k + 1, s =>
    match step s with
    | .next t => runSteps k t
    | .fault r => .fault r
    | .refused r => .refused r

/-- A run of `k` steps is safe when it gets through them and does not end Faulted: a Faulted end refutes
any claim that the program ran to its intended end (spec/60_exceptions.md R225). -/
def safeRun (k : Nat) (s : State) : Bool :=
  match runSteps k s with
  | .next t => State.unfaulted t
  | _ => false

end Sys2Proof.Machine
end

