-- ==== Sys2Proof/Certificates/Slice0/Obligations.lean ====
section
/-! DEFINITION. The statements for the provers.  First the words they are written in, then one
`def Obligations.<Name> : Prop` each.  A rule R<n> is of spec/. -/

namespace Sys2Proof.Spec

open Sys2Proof.Machine

/-- The status byte after `SetZN(v)` as one formula (R27): under `ZN_SET_ONLY` the old bits stay, else
bits 1 and 7 are cleared first; then bit 1 is set if `v = 0` and bit 7 if bit 7 of `v` is set. -/
def znByte (cfg : Config) (p v : Byte) : Byte :=
  (if cfg.znSetOnly then p else p &&& 0x7D#8) ||| (if v = 0#8 then 0x02#8 else 0x00#8) ||| (v &&& 0x80#8)

/-- 1 if adding the index to `base` changes the page, else 0, in whole numbers (R119). -/
def crossing (base : Word) (index : Byte) : Nat :=
  if base.toNat / 256 = ((base.toNat + index.toNat) % 65536) / 256 then 0 else 1

/-- The pointer at zero-page address `p`: low byte from `p`, high byte from `p + 1` at 16 bits, or from
`(p + 1) mod 256` under `ZP_PTR_WRAP` (R61). -/
def pointer (s : State) (p : Byte) : Word :=
  wordOf (memRead s.mem (if s.config.zpPtrWrap then zext16 (p + 1) else zext16 p + 1))
    (memRead s.mem (zext16 p))

/-- The instruction `i` has the bytes `code` and costs `cycles` in all, and from the state `s` after its
opcode fetch (which took the first byte and the first cycle) `exec` answers exactly `effect s` with `PC`
past the other bytes and the other cycles charged. -/
def Performs (i : Instr) (code : List Byte) (cycles : Nat) (s : State) (effect : State → State) : Prop :=
  encode i = code ∧
  exec i s = .next { effect s with
    pc := s.pc + BitVec.ofNat 16 (code.length - 1)
    cyc := s.cyc - ((cycles : Int) - 1) }

/-- The value `v` goes to `A`, and `SetZN(v)`. -/
def toA (v : Byte) (s : State) : State := { s with a := v, p := znByte s.config s.p v }

/-- The value `v` goes to `X`, and `SetZN(v)`. -/
def toX (v : Byte) (s : State) : State := { s with x := v, p := znByte s.config s.p v }

/-- The value `v` goes to `Y`, and `SetZN(v)`. -/
def toY (v : Byte) (s : State) : State := { s with y := v, p := znByte s.config s.p v }

/-- The byte `v` goes to the memory cell `ea`. -/
def toMem (ea : Word) (v : Byte) (s : State) : State := { s with mem := memWrite s.mem ea v }

/-- The cell an instruction stores to and the byte it stores, computed as its meaning computes them;
`none` for the forms that store nothing. -/
def storeTarget (i : Instr) (s : State) : Option (Word × Byte) :=
  match i with
  | .staZp d => some ((addrZeroPage d s).1, s.a)
  | .staZpX d => some ((addrZeroPageX d s).1, s.a)
  | .staAbs w => some ((addrAbsolute w s).1, s.a)
  | .staAbsX w => some ((addrAbsoluteX true w s).1, s.a)
  | .staAbsY w => some ((addrAbsoluteY true w s).1, s.a)
  | .staIndX d => some ((addrIndirectX d s).1, s.a)
  | .staIndY d => some ((addrIndirectY true d s).1, s.a)
  | .stxZp d => some ((addrZeroPage d s).1, s.x)
  | .stxZpY d => some ((addrZeroPageY d s).1, s.x)
  | .stxAbs w => some ((addrAbsolute w s).1, s.x)
  | .styZp d => some ((addrZeroPage d s).1, s.y)
  | .styZpX d => some ((addrZeroPageX d s).1, s.y)
  | .styAbs w => some ((addrAbsolute w s).1, s.y)
  | .pha => some (stackAddr s.sp, s.a)
  | .php => some (stackAddr s.sp, s.p)
  | _ => none

/-- The instructions that write `A`: LDA, TXA, TYA, PLA (R23). -/
def writesA : Instr → Bool
  | .ldaImm _ | .ldaZp _ | .ldaZpX _ | .ldaAbs _ | .ldaAbsX _ | .ldaAbsY _ | .ldaIndX _ | .ldaIndY _ => true
  | .txa | .tya | .pla => true
  | _ => false

/-- The instructions that write `X`: LDX, TAX, TSX (R23). -/
def writesX : Instr → Bool
  | .ldxImm _ | .ldxZp _ | .ldxZpY _ | .ldxAbs _ | .ldxAbsY _ | .tax | .tsx => true
  | _ => false

/-- The instructions that write `Y`: LDY, TAY (R23). -/
def writesY : Instr → Bool
  | .ldyImm _ | .ldyZp _ | .ldyZpX _ | .ldyAbs _ | .ldyAbsX _ | .tay => true
  | _ => false

/-- The instructions that write `SP`: TXS and the four stack instructions (R22). -/
def writesSp : Instr → Bool
  | .txs | .pha | .php | .pla | .plp => true
  | _ => false

/-- The instructions that apply `SetZN`: every load, TAX, TXA, TAY, TYA, TSX and PLA (R28). -/
def appliesZN (i : Instr) : Bool := writesA i || writesX i || writesY i

end Sys2Proof.Spec

open Sys2Proof Sys2Proof.Machine Sys2Proof.Spec

/-! ## Reset and the host -/

/-- R34: every element of state after Reset. -/
def Obligations.ResetValues : Prop :=
  State.reset.pc = 0xFFFC#16 ∧ State.reset.sp = 0xFF#8 ∧ State.reset.a = 0x00#8 ∧
  State.reset.x = 0x00#8 ∧ State.reset.y = 0x00#8 ∧ State.reset.p = 0x00#8 ∧
  (∀ addr : Word, memRead State.reset.mem addr = 0x00#8) ∧
  State.reset.cyc = 0 ∧ State.reset.run = .halted

/-- R240: the transaction Reset, from Halted and from Faulted, sets every element of the spec's state.
That the parameters and the moves still waiting stay is the model's (notes/assumptions/1.md, 2.md). -/
def Obligations.ResetTransactionSetsEveryElement : Prop :=
  ∀ (s : State) (rest : List HostMove), s.run ≠ .running → s.inbox = .reset :: rest →
    ∃ t, step s = .next t ∧
      t.pc = 0xFFFC#16 ∧ t.sp = 0xFF#8 ∧ t.a = 0x00#8 ∧ t.x = 0x00#8 ∧ t.y = 0x00#8 ∧ t.p = 0x00#8 ∧
      (∀ addr : Word, memRead t.mem addr = 0x00#8) ∧ t.mem = State.reset.mem ∧
      t.cyc = 0 ∧ t.run = .halted ∧ t.inbox = rest ∧ t.config = s.config

/-- R6, between runs: a host write of a cell or a register changes that and nothing else; a cell written
reads back and every other cell reads as before. -/
def Obligations.HostWritesBetweenRuns : Prop :=
  ∀ (s : State) (rest : List HostMove) (addr v16 : Word) (v : Byte), s.run ≠ .running → s.mem.wf →
    (∃ t, step { s with inbox := .writeMem addr v :: rest } = .next t ∧
      memRead t.mem addr = v ∧ (∀ b, b ≠ addr → memRead t.mem b = memRead s.mem b) ∧
      t = { s with mem := t.mem, inbox := rest }) ∧
    step { s with inbox := .writePc v16 :: rest } = .next { s with pc := v16, inbox := rest } ∧
    step { s with inbox := .writeSp v :: rest } = .next { s with sp := v, inbox := rest } ∧
    step { s with inbox := .writeReg .a v :: rest } = .next { s with a := v, inbox := rest } ∧
    step { s with inbox := .writeReg .x v :: rest } = .next { s with x := v, inbox := rest } ∧
    step { s with inbox := .writeReg .y v :: rest } = .next { s with y := v, inbox := rest } ∧
    step { s with inbox := .writeP v :: rest } = .next { s with p := v, inbox := rest }

/-- R136 and R37: while Running the host's waiting moves neither happen nor matter. -/
def Obligations.RunningCoreIgnoresTheHost : Prop :=
  ∀ s : State, s.run = .running →
    ∃ t, step s = .next t ∧ t.inbox = s.inbox ∧
      ∀ q : List HostMove, step { s with inbox := q } = .next { t with inbox := q }

/-- R224: a core that is not Running and has no move of the host to make keeps all its state; a move of
the host is the only thing that changes it. -/
def Obligations.IdleCoreKeepsItsState : Prop :=
  ∀ s : State, s.run ≠ .running → (step s = .next s ↔ s.inbox = [])

/-! ## Decoding and encoding -/

/-- Words written out from R93 decode to the instructions they stand for. -/
def Obligations.SampleWordsDecode : Prop :=
  decodeTableWord 16 0xFEA9 = some (.ldaImm 0xFE#8) ∧
  decodeTableWord 24 0x1234B9 = some (.ldaAbsY 0x1234#16) ∧
  decodeTableWord 16 0x02B6 = some (.ldxZpY 0x02#8) ∧
  decodeTableWord 24 0x12FCBC = some (.ldyAbsX 0x12FC#16) ∧
  decodeTableWord 16 0x2091 = some (.staIndY 0x20#8) ∧
  decodeTableWord 24 0xFFFC8E = some (.stxAbs 0xFFFC#16) ∧
  decodeTableWord 16 0x1094 = some (.styZpX 0x10#8) ∧
  decodeTableWord 8 0x9A = some .txs ∧ decodeTableWord 8 0x28 = some .plp ∧
  decodeTableWord 8 0xEA = none ∧ decodeTableWord 8 0x00 = none

/-- R90 to R93: decoding an encoded instruction gives it back with the bytes after it untouched, for
every instruction and every operand. -/
def Obligations.DecodeOfEncode : Prop :=
  ∀ (i : Instr) (rest : List Byte), decode (encode i ++ rest) = .ok (i, rest)

/-- R93, R100: whatever decodes is the encoding of what it decodes to, so an instruction has one
encoding and no bit of it is dropped. -/
def Obligations.EncodeOfDecode : Prop :=
  ∀ (bytes rest : List Byte) (i : Instr), decode bytes = .ok (i, rest) → bytes = encode i ++ rest

/-- R94: the 41 byte values select one row each and no two rows share one. -/
def Obligations.OpcodeMapIsOneToOne : Prop :=
  (∀ i j : Instr, i.opcode = j.opcode ↔ i.mnemonic = j.mnemonic) ∧
  (∀ i : Instr, i.opcode ∈ mappedOpcodes) ∧
  (∀ op ∈ mappedOpcodes, ∃ i : Instr, i.opcode = op) ∧
  mappedOpcodes.length = 41 ∧ mappedOpcodes.Nodup

/-- R90, R95, R97: the decoder accepts exactly the byte sequences whose first byte is mapped and which
hold at least the bytes that byte asks for, takes exactly that many, and rejects every unmapped first
byte by name whatever follows. -/
def Obligations.DecoderAcceptsExactlyTheMappedOpcodes : Prop :=
  ∀ (op : Byte) (rest : List Byte),
    (op ∉ mappedOpcodes → decode (op :: rest) = .error (.unknownOpcode op)) ∧
    (∀ n, opcodeLength op = some n →
      (n ≤ rest.length + 1 →
        ∃ i, decode (op :: rest) = .ok (i, (op :: rest).drop n)) ∧
      (rest.length + 1 < n → decode (op :: rest) = .error (.missingOperand op)))

/-! ## One step -/

/-- R131: a Running core with cycles left runs the instruction its bytes decode to, on the state with the
opcode byte fetched, and then makes the loop test of R130. -/
def Obligations.StepRunsTheDecodedInstruction : Prop :=
  ∀ (s : State) (i : Instr), s.run = .running → 0 < s.cyc → nextInstr s = some i →
    ∃ t, exec i { s with pc := s.pc + 1, cyc := s.cyc - 1 } = .next t ∧
      step s = .next { t with run := if 0 < t.cyc then .running else .halted }

/-- R211 and R216: an unknown opcode latches Faulted with its byte and address, with `PC` one past it and
one cycle charged, and changes nothing else; and no other step latches any fault. -/
def Obligations.UnknownOpcodeStopsTheCore : Prop :=
  (∀ (s : State) (op : Byte), s.run = .running → 0 < s.cyc → memRead s.mem s.pc = op →
    op ∉ mappedOpcodes →
    step s = .next { s with
      pc := s.pc + 1, cyc := s.cyc - 1, run := .faulted (.unknownOpcode op s.pc) }) ∧
  (∀ (s t : State) (cause : FaultCause), step s = .next t → t.run = .faulted cause →
    s.run ≠ .faulted cause →
    s.run = .running ∧ 0 < s.cyc ∧ memRead s.mem s.pc ∉ mappedOpcodes ∧
    cause = .unknownOpcode (memRead s.mem s.pc) s.pc)

/-- R218: while Faulted, Execute changes nothing, no move but Reset leaves the state, a write to `PC` does
not clear the latch, and Reset leaves it with memory erased. -/
def Obligations.FaultedStateIsSticky : Prop :=
  ∀ (s : State) (cause : FaultCause) (rest : List HostMove), s.run = .faulted cause →
    (∀ budget, step { s with inbox := .execute budget :: rest } = .next { s with inbox := rest }) ∧
    (∀ v, step { s with inbox := .writePc v :: rest } = .next { s with pc := v, inbox := rest }) ∧
    (∀ t, step s = .next t → t.run ≠ .faulted cause → s.inbox.head? = some .reset) ∧
    (∃ t, step { s with inbox := .reset :: rest } = .next t ∧ t.run = .halted ∧
      ∀ addr : Word, memRead t.mem addr = 0x00#8)

/-- R132: the transitions of `RUN`, row by row, and that there is no other.  The clause on a Running state
with `CYC` at most 0, which no run reaches, is the model's choice (notes/assumptions/12.md). -/
def Obligations.RunStateTransitions : Prop :=
  ∀ s : State, ∃ t, step s = .next t ∧
    (s.run = .halted → ∀ b rest, s.inbox = .execute b :: rest → 0 < b → t.run = .running) ∧
    (s.run = .halted → ∀ rest, s.inbox = .execute 0 :: rest → t.run = .halted) ∧
    (s.run = .halted → (∀ b rest, s.inbox ≠ .execute b :: rest) → t.run = .halted) ∧
    (s.run = .running → 0 < s.cyc → memRead s.mem s.pc ∈ mappedOpcodes → 0 < t.cyc →
      t.run = .running) ∧
    (s.run = .running → 0 < s.cyc → memRead s.mem s.pc ∈ mappedOpcodes → t.cyc ≤ 0 →
      t.run = .halted) ∧
    (s.run = .running → 0 < s.cyc → memRead s.mem s.pc ∉ mappedOpcodes →
      t.run = .faulted (.unknownOpcode (memRead s.mem s.pc) s.pc)) ∧
    (s.run = .running → s.cyc ≤ 0 → t.run = .halted) ∧
    (∀ cause, s.run = .faulted cause → s.inbox.head? ≠ some .reset → t.run = .faulted cause) ∧
    (s.run ≠ .running → ∀ rest, s.inbox = .reset :: rest → t.run = .halted)

/-- R249 and R21: one step of a mapped opcode removes from `CYC` the total of its row, base plus the page
penalty, moves `PC` by the instruction's length, and costs 2 to 6 cycles; an unknown opcode costs 1. -/
def Obligations.StepCostAndLength : Prop :=
  ∀ s : State, s.run = .running → 0 < s.cyc →
    ∃ t, step s = .next t ∧
      match Reference.lookup (memRead s.mem s.pc) with
      | some row =>
        t.cyc = s.cyc - (Reference.totalCycles row s : Int) ∧
        2 ≤ Reference.totalCycles row s ∧ Reference.totalCycles row s ≤ 6 ∧
        t.pc = s.pc + BitVec.ofNat 16 (1 + row.mode.operandLength)
      | none => t.cyc = s.cyc - 1 ∧ t.pc = s.pc + 1

/-- R140 and R212: from every state a step answers a next state; nothing faults outside the latch and
nothing is refused. -/
def Obligations.EveryStepAnswersANextState : Prop :=
  ∀ s : State, ∃ t, step s = .next t

/-- R131 to R137, with every operand byte fetched from memory when the pseudocode fetches it: running the
decoded instruction is the spec's `Step()` on every state. -/
def Obligations.InstructionRunIsTheReferenceStep : Prop :=
  ∀ s : State, runInstruction s = .next (Reference.referenceStep s)

/-! ## The Execute transaction -/

/-- R130, R36: Execute on a Halted core loads `CYC` afresh from its budget, whatever it held, keeps every
register and memory, and is Running exactly if the budget is positive. -/
def Obligations.ExecuteLoadsItsBudget : Prop :=
  ∀ (s : State) (budget : Nat) (rest : List HostMove), s.run = .halted →
    s.inbox = .execute budget :: rest →
    step s = .next { s with
      cyc := budget, inbox := rest, run := if budget = 0 then .halted else .running }

/-- R130: stepping an Execute call to its end gives exactly the state of the `while` loop of R130, faults
and overspend included. -/
def Obligations.SteppingIsTheExecuteLoop : Prop :=
  ∀ (s : State) (budget : Nat), s.run ≠ .running → s.inbox = [] →
    runSteps (budget + 1) { s with inbox := [.execute budget] } = execute budget s

/-- R139: an Execute call ends: after its start and half the budget, rounded up, in instructions, each
costing at least 2 cycles, the core is not Running. -/
def Obligations.ExecuteEndsWithinItsBudget : Prop :=
  ∀ (s : State) (budget : Nat), s.run ≠ .running → s.inbox = [.execute budget] →
    ∃ t, runSteps (1 + (budget + 1) / 2) s = .next t ∧ t.run ≠ .running

/-- R135: `Execute(1)` runs exactly one instruction and halts. -/
def Obligations.ExecuteOneSingleSteps : Prop :=
  ∀ (s : State) (i : Instr), s.run = .halted → s.inbox = [.execute 1] → nextInstr s = some i →
    ∃ t, exec i { s with pc := s.pc + 1, cyc := 0, run := .running, inbox := [] } = .next t ∧
      runSteps 2 s = .next { t with run := .halted }

/-! ## Invariants -/

/-- The state after Reset meets the invariant. -/
def Obligations.ResetMeetsTheInvariant : Prop := State.Inv State.reset

/-- R32, R133, R139, R211, R212: from every state that meets the invariant a step gives one that does.
Memory stays canonical; Running keeps `CYC > 0`; a halted core's meter is in −5 to 0; a latched fault is
an unmapped opcode, never an out-of-range address. -/
def Obligations.StepKeepsTheInvariant : Prop :=
  ∀ s t : State, State.Inv s → step s = .next t → State.Inv t

/-- The canonical form is canonical: two memories in it that read alike everywhere are equal. -/
def Obligations.CanonicalMemoriesAreEqual : Prop :=
  ∀ m n : Memory, m.wf → n.wf → (∀ addr : Word, memRead m addr = memRead n addr) → m = n

/-! ## The instructions, row by row -/

/-- R151, R159, R164. -/
def Obligations.ImmediateLoads : Prop :=
  ∀ (s : State) (d : Byte),
    Performs (.ldaImm d) [0xA9#8, d] 2 s (toA d) ∧
    Performs (.ldxImm d) [0xA2#8, d] 2 s (toX d) ∧
    Performs (.ldyImm d) [0xA0#8, d] 2 s (toY d)

/-- R152 to R158. -/
def Obligations.LdaFromMemory : Prop :=
  ∀ (s : State) (d lo hi : Byte),
    Performs (.ldaZp d) [0xA5#8, d] 3 s (toA (memRead s.mem (zext16 d))) ∧
    Performs (.ldaZpX d) [0xB5#8, d] 4 s (toA (memRead s.mem (zext16 (d + s.x)))) ∧
    Performs (.ldaAbs (wordOf hi lo)) [0xAD#8, lo, hi] 4 s (toA (memRead s.mem (wordOf hi lo))) ∧
    Performs (.ldaAbsX (wordOf hi lo)) [0xBD#8, lo, hi] (4 + crossing (wordOf hi lo) s.x) s
      (toA (memRead s.mem (wordOf hi lo + zext16 s.x))) ∧
    Performs (.ldaAbsY (wordOf hi lo)) [0xB9#8, lo, hi] (4 + crossing (wordOf hi lo) s.y) s
      (toA (memRead s.mem (wordOf hi lo + zext16 s.y))) ∧
    Performs (.ldaIndX d) [0xA1#8, d] 6 s (toA (memRead s.mem (pointer s (d + s.x)))) ∧
    Performs (.ldaIndY d) [0xB1#8, d] (5 + crossing (pointer s d) s.y) s
      (toA (memRead s.mem (pointer s d + zext16 s.y)))

/-- R160 to R163. -/
def Obligations.LdxFromMemory : Prop :=
  ∀ (s : State) (d lo hi : Byte),
    Performs (.ldxZp d) [0xA6#8, d] 3 s (toX (memRead s.mem (zext16 d))) ∧
    Performs (.ldxZpY d) [0xB6#8, d] 4 s (toX (memRead s.mem (zext16 (d + s.y)))) ∧
    Performs (.ldxAbs (wordOf hi lo)) [0xAE#8, lo, hi] 4 s (toX (memRead s.mem (wordOf hi lo))) ∧
    Performs (.ldxAbsY (wordOf hi lo)) [0xBE#8, lo, hi] (4 + crossing (wordOf hi lo) s.y) s
      (toX (memRead s.mem (wordOf hi lo + zext16 s.y)))

/-- R165 to R168. -/
def Obligations.LdyFromMemory : Prop :=
  ∀ (s : State) (d lo hi : Byte),
    Performs (.ldyZp d) [0xA4#8, d] 3 s (toY (memRead s.mem (zext16 d))) ∧
    Performs (.ldyZpX d) [0xB4#8, d] 4 s (toY (memRead s.mem (zext16 (d + s.x)))) ∧
    Performs (.ldyAbs (wordOf hi lo)) [0xAC#8, lo, hi] 4 s (toY (memRead s.mem (wordOf hi lo))) ∧
    Performs (.ldyAbsX (wordOf hi lo)) [0xBC#8, lo, hi] (4 + crossing (wordOf hi lo) s.x) s
      (toY (memRead s.mem (wordOf hi lo + zext16 s.x)))

/-- R171 to R177: the indexed stores cost the same with and without a page crossing. -/
def Obligations.StaToMemory : Prop :=
  ∀ (s : State) (d lo hi : Byte),
    Performs (.staZp d) [0x85#8, d] 3 s (toMem (zext16 d) s.a) ∧
    Performs (.staZpX d) [0x95#8, d] 4 s (toMem (zext16 (d + s.x)) s.a) ∧
    Performs (.staAbs (wordOf hi lo)) [0x8D#8, lo, hi] 4 s (toMem (wordOf hi lo) s.a) ∧
    Performs (.staAbsX (wordOf hi lo)) [0x9D#8, lo, hi] 5 s (toMem (wordOf hi lo + zext16 s.x) s.a) ∧
    Performs (.staAbsY (wordOf hi lo)) [0x99#8, lo, hi] 5 s (toMem (wordOf hi lo + zext16 s.y) s.a) ∧
    Performs (.staIndX d) [0x81#8, d] 6 s (toMem (pointer s (d + s.x)) s.a) ∧
    Performs (.staIndY d) [0x91#8, d] 6 s (toMem (pointer s d + zext16 s.y) s.a)

/-- R178 to R180: the index of STX zero-page,Y is `Y`. -/
def Obligations.StxToMemory : Prop :=
  ∀ (s : State) (d lo hi : Byte),
    Performs (.stxZp d) [0x86#8, d] 3 s (toMem (zext16 d) s.x) ∧
    Performs (.stxZpY d) [0x96#8, d] 4 s (toMem (zext16 (d + s.y)) s.x) ∧
    Performs (.stxAbs (wordOf hi lo)) [0x8E#8, lo, hi] 4 s (toMem (wordOf hi lo) s.x)

/-- R181 to R183. -/
def Obligations.StyToMemory : Prop :=
  ∀ (s : State) (d lo hi : Byte),
    Performs (.styZp d) [0x84#8, d] 3 s (toMem (zext16 d) s.y) ∧
    Performs (.styZpX d) [0x94#8, d] 4 s (toMem (zext16 (d + s.x)) s.y) ∧
    Performs (.styAbs (wordOf hi lo)) [0x8C#8, lo, hi] 4 s (toMem (wordOf hi lo) s.y)

/-- R191 to R196: TXS alone changes no flag. -/
def Obligations.RegisterTransfers : Prop :=
  ∀ s : State,
    Performs .tax [0xAA#8] 2 s (toX s.a) ∧
    Performs .txa [0x8A#8] 2 s (toA s.x) ∧
    Performs .tay [0xA8#8] 2 s (toY s.a) ∧
    Performs .tya [0x98#8] 2 s (toA s.y) ∧
    Performs .tsx [0xBA#8] 2 s (toX s.sp) ∧
    Performs .txs [0x9A#8] 2 s (fun u => { u with sp := u.x })

/-- R201 and R202: a push writes `0x0100 + SP` and then decrements `SP` modulo 256; PHP pushes `P`
unchanged. -/
def Obligations.PushInstructions : Prop :=
  ∀ s : State,
    Performs .pha [0x48#8] 3 s (fun u => { toMem (0x0100#16 + zext16 u.sp) u.a u with sp := u.sp - 1 }) ∧
    Performs .php [0x08#8] 3 s (fun u => { toMem (0x0100#16 + zext16 u.sp) u.p u with sp := u.sp - 1 })

/-- R203 and R204: a pull increments `SP` modulo 256 and then reads `0x0100 + SP`; PLP replaces all of
`P` and applies no `SetZN`. -/
def Obligations.PullInstructions : Prop :=
  ∀ s : State,
    Performs .pla [0x68#8] 4 s
      (fun u => { toA (memRead u.mem (0x0100#16 + zext16 (u.sp + 1))) u with sp := u.sp + 1 }) ∧
    Performs .plp [0x28#8] 4 s
      (fun u => { u with p := memRead u.mem (0x0100#16 + zext16 (u.sp + 1)), sp := u.sp + 1 })

/-! ## Frames and whole-machine rules -/

/-- "Exceptions: none" of every instruction rule (R150, R170, R190, R200): each of the 41 completes from
every state, and none touches `RUN`, the waiting moves or the parameters. -/
def Obligations.EveryInstructionCompletes : Prop :=
  ∀ (i : Instr) (s : State),
    ∃ t, exec i s = .next t ∧ t.run = s.run ∧ t.inbox = s.inbox ∧ t.config = s.config

/-- R170, R201, R202 and R150, R190, R200: a storing instruction changes the one cell its meaning
computes, to its source register, and every other byte reads as before; every other instruction leaves
every byte. -/
def Obligations.MemoryFrame : Prop :=
  ∀ (i : Instr) (s t : State), s.mem.wf → exec i s = .next t →
    (∀ ea v, storeTarget i s = some (ea, v) →
      memRead t.mem ea = v ∧ ∀ b, b ≠ ea → memRead t.mem b = memRead s.mem b) ∧
    (storeTarget i s = none → ∀ b, memRead t.mem b = memRead s.mem b)

/-- R22, R23 and R28: a register changes only by an instruction the spec lists as its writer. -/
def Obligations.RegisterFrame : Prop :=
  ∀ (i : Instr) (s t : State), exec i s = .next t →
    (writesA i = false → t.a = s.a) ∧
    (writesX i = false → t.x = s.x) ∧
    (writesY i = false → t.y = s.y) ∧
    (writesSp i = false → t.sp = s.sp) ∧
    (appliesZN i = false → i ≠ .plp → t.p = s.p)

/-- R28: over all 41 instructions only PLP changes C, I, D, B, bit 5 or V, and, with set-only flags, only
PLP clears any flag. -/
def Obligations.OnlyPlpClearsFlags : Prop :=
  ∀ (i : Instr) (s t : State), i ≠ .plp → exec i s = .next t →
    (∀ f : Flag, f ≠ .z → f ≠ .n → isFlagSet t.p f = isFlagSet s.p f) ∧
    (s.config.znSetOnly = true → ∀ f : Flag, isFlagSet s.p f = true → isFlagSet t.p f = true)

/-- R29: no flag affects any instruction.  Two runs that differ in `P` differ after one instruction in
`P` alone, and after PHP also in the one byte it pushes, which is `P`. -/
def Obligations.FlagsHaveNoEffect : Prop :=
  ∀ (i : Instr) (s t : State) (q : Byte), exec i s = .next t →
    (i ≠ .php → ∃ r : Byte, exec i { s with p := q } = .next { t with p := r }) ∧
    (i = .php → exec i { s with p := q } =
      .next { t with p := q, mem := memWrite s.mem (0x0100#16 + zext16 s.sp) q })

/-- R251: the effect of an instruction does not depend on `CYC`: with `k` more cycles on the meter before,
there are `k` more after, and nothing else differs. -/
def Obligations.EffectsDoNotDependOnTheMeter : Prop :=
  ∀ (i : Instr) (s t : State) (k : Int), exec i s = .next t →
    exec i { s with cyc := s.cyc + k } = .next { t with cyc := t.cyc + k }

/-! ## Flags -/

/-- R26: the four flag primitives, each changing only the named bit. -/
def Obligations.FlagPrimitives : Prop :=
  ∀ (p : Byte) (f : Flag) (k : Nat), k < 8 →
    isFlagSet p f = p.getLsbD f.pos ∧
    (setFlag p f).getLsbD k = (if k = f.pos then true else p.getLsbD k) ∧
    (clearFlag p f).getLsbD k = (if k = f.pos then false else p.getLsbD k) ∧
    (toggleFlag p f).getLsbD k = (if k = f.pos then !p.getLsbD k else p.getLsbD k)

/-- R27: `SetZN` bit by bit, under each setting of `ZN_SET_ONLY`. -/
def Obligations.ZeroNegativeHelper : Prop :=
  ∀ (cfg : Config) (p v : Byte),
    (cfg.znSetOnly = true →
      isFlagSet (setZN cfg p v) .z = (isFlagSet p .z || v == 0#8) ∧
      isFlagSet (setZN cfg p v) .n = (isFlagSet p .n || v.getLsbD 7)) ∧
    (cfg.znSetOnly = false →
      isFlagSet (setZN cfg p v) .z = (v == 0#8) ∧ isFlagSet (setZN cfg p v) .n = v.getLsbD 7) ∧
    (∀ f : Flag, f ≠ .z → f ≠ .n → isFlagSet (setZN cfg p v) f = isFlagSet p f)

/-! ## Addressing -/

/-- R110, R124: every resolver changes only `PC`, by the operand's length, and `CYC`, by the mode's cost,
the unused Indirect and Relative among them. -/
def Obligations.ResolversChangeOnlyPcAndMeter : Prop :=
  ∀ (s : State) (d : Byte) (w : Word) (fixed : Bool),
    (operandImmediate d s).2 = { s with pc := s.pc + 1, cyc := s.cyc - 1 } ∧
    (addrZeroPage d s).2 = { s with pc := s.pc + 1, cyc := s.cyc - 1 } ∧
    (addrZeroPageX d s).2 = { s with pc := s.pc + 1, cyc := s.cyc - 2 } ∧
    (addrZeroPageY d s).2 = { s with pc := s.pc + 1, cyc := s.cyc - 2 } ∧
    (addrAbsolute w s).2 = { s with pc := s.pc + 2, cyc := s.cyc - 2 } ∧
    (addrAbsoluteX fixed w s).2 = { s with
      pc := s.pc + 2, cyc := s.cyc - 2 - (if fixed then 1 else (crossing w s.x : Int)) } ∧
    (addrAbsoluteY fixed w s).2 = { s with
      pc := s.pc + 2, cyc := s.cyc - 2 - (if fixed then 1 else (crossing w s.y : Int)) } ∧
    (addrIndirect w s).2 = { s with pc := s.pc + 2, cyc := s.cyc - 4 } ∧
    (addrIndirectX d s).2 = { s with pc := s.pc + 1, cyc := s.cyc - 4 } ∧
    (addrIndirectY fixed d s).2 = { s with
      pc := s.pc + 1, cyc := s.cyc - 3 - (if fixed then 1 else (crossing (pointer s d) s.y : Int)) } ∧
    (addrRelative d s).2 = { s with pc := s.pc + 1, cyc := s.cyc - 2 }

/-- R113, R114 and R115: the zero-page modes stay in page 0: the address is `(base + index) mod 256` as a
whole number, with their operand consumed and their cycles charged. -/
def Obligations.ZeroPageModesStayInPageZero : Prop :=
  ∀ (s : State) (d : Byte),
    (addrZeroPage d s).1.toNat = d.toNat ∧
    (addrZeroPageX d s).1.toNat = (d.toNat + s.x.toNat) % 256 ∧
    (addrZeroPageY d s).1.toNat = (d.toNat + s.y.toNat) % 256 ∧
    (addrZeroPage d s).2 = { s with pc := s.pc + 1, cyc := s.cyc - 1 } ∧
    (addrZeroPageX d s).2 = { s with pc := s.pc + 1, cyc := s.cyc - 2 } ∧
    (addrZeroPageY d s).2 = { s with pc := s.pc + 1, cyc := s.cyc - 2 }

/-- R117, R118, R119: the 16-bit index addition is modulo 65536, an index of 0 never crosses a page, and a
crossing changes the page by exactly one, or from the last page to page 0. -/
def Obligations.PageCrossing : Prop :=
  ∀ (s : State) (w : Word) (fixed : Bool),
    (addrAbsoluteX fixed w s).1.toNat = (w.toNat + s.x.toNat) % 65536 ∧
    (addrAbsoluteY fixed w s).1.toNat = (w.toNat + s.y.toNat) % 65536 ∧
    (∀ index : Byte, crossed w (w + zext16 index) = (crossing w index == 1)) ∧
    crossed w (w + zext16 0#8) = false ∧
    (∀ index : Byte, crossed w (w + zext16 index) = true →
      (w + zext16 index).toNat / 256 = (w.toNat / 256 + 1) % 256)

/-- R120 and R123: the two resolvers no opcode uses.  Indirect reads the word at its operand with no
page wrap; Relative adds the signed displacement to the address after the operand, modulo 65536. -/
def Obligations.IndirectAndRelativeResolvers : Prop :=
  ∀ (s : State) (w : Word) (d : Byte),
    (addrIndirect w s).1.toNat =
      256 * (memRead s.mem (w + 1)).toNat + (memRead s.mem w).toNat ∧
    ((addrRelative d s).1.toNat : Int) = (((s.pc + 1).toNat : Int) + d.toInt) % 65536 ∧
    (addrIndirect w s).2 = { s with pc := s.pc + 2, cyc := s.cyc - 4 } ∧
    (addrRelative d s).2 = { s with pc := s.pc + 1, cyc := s.cyc - 2 }

/-- R61: `ReadWord` is little-endian with its second byte at `a + 1` modulo 65536, moves no register and
costs 2; a zero-page pointer at 0x00FF has its high byte at 0x0100, or at 0x0000 under `ZP_PTR_WRAP`.
That the parameter concerns the pointers of (Indirect,X) and (Indirect),Y alone, so that `ReadWord` at
0x00FF goes to 0x0100 under both settings, is DEDUCED (notes/assumptions/15.md). -/
def Obligations.WordAndPointerReads : Prop :=
  ∀ (s : State) (a : Word) (p : Byte),
    (readWord a s).1.toNat = (memRead s.mem a).toNat +
      256 * (memRead s.mem (BitVec.ofNat 16 ((a.toNat + 1) % 65536))).toNat ∧
    (readWord a s).2 = { s with cyc := s.cyc - 2 } ∧
    (readPointer p s).2 = { s with cyc := s.cyc - 2 } ∧
    (s.config.zpPtrWrap = false → (readPointer p s).1 = (readWord (zext16 p) s).1) ∧
    (s.config.zpPtrWrap = true → (readPointer p s).1.toNat = (memRead s.mem (zext16 p)).toNat +
      256 * (memRead s.mem (BitVec.ofNat 16 ((p.toNat + 1) % 256))).toNat)

/-! ## Memory and the stack -/

/-- R58 to R60 and R62 to R64: the bus primitives, each with its value, the cell or register it changes
and its cycles; `FetchWord` and the two stack primitives wrap. -/
def Obligations.BusPrimitives : Prop :=
  ∀ (s : State) (a : Word) (v : Byte),
    fetchByte s = (memRead s.mem s.pc, { s with pc := s.pc + 1, cyc := s.cyc - 1 }) ∧
    (fetchWord s).1.toNat = (memRead s.mem s.pc).toNat +
      256 * (memRead s.mem (BitVec.ofNat 16 ((s.pc.toNat + 1) % 65536))).toNat ∧
    (fetchWord s).2 = { s with pc := s.pc + 2, cyc := s.cyc - 2 } ∧
    readByte a s = (memRead s.mem a, { s with cyc := s.cyc - 1 }) ∧
    writeByte a v s = { s with mem := memWrite s.mem a v, cyc := s.cyc - 1 } ∧
    pushToStack v s = { s with
      mem := memWrite s.mem (BitVec.ofNat 16 (256 + s.sp.toNat)) v
      sp := BitVec.ofNat 8 ((s.sp.toNat + 255) % 256), cyc := s.cyc - 1 } ∧
    popFromStack s =
      (memRead s.mem (BitVec.ofNat 16 (256 + (s.sp.toNat + 1) % 256)), { s with
        sp := BitVec.ofNat 8 ((s.sp.toNat + 1) % 256), cyc := s.cyc - 1 })

/-- R51, R60, R62 and R67: a byte written is the byte read, every other cell reads as before, and each
access costs one cycle and changes nothing else. -/
def Obligations.ReadSeesTheLastWrite : Prop :=
  ∀ (s : State) (a : Word) (v : Byte), s.mem.wf →
    (readByte a (writeByte a v s)).1 = v ∧
    (∀ b : Word, b ≠ a → (readByte b (writeByte a v s)).1 = (readByte b s).1) ∧
    (∀ b : Word, (readByte b s).2 = { s with cyc := s.cyc - 1 }) ∧
    writeByte a v s = { s with mem := (writeByte a v s).mem, cyc := s.cyc - 1 }

/-- R63, R64 and R200: the push and pull round trips, `SP` wrapping at both ends: PHA then PLA restores
`A` and `SP`, PHP then PLP restores `P` and `SP`. -/
def Obligations.PushThenPullRoundTrips : Prop :=
  ∀ s : State, s.mem.wf →
    (∀ v, (popFromStack (pushToStack v s)).1 = v ∧ (popFromStack (pushToStack v s)).2.sp = s.sp) ∧
    (∃ t u, exec .pha s = .next t ∧ exec .pla t = .next u ∧ u.a = s.a ∧ u.sp = s.sp) ∧
    (∃ t u, exec .php s = .next t ∧ exec .plp t = .next u ∧ u.p = s.p ∧ u.sp = s.sp)

/-- R70: a byte stored by an instruction is the byte that a later fetch at its address gets, at once. -/
def Obligations.StoresAreSeenByTheNextFetch : Prop :=
  ∀ (i : Instr) (s t : State) (ea : Word) (v : Byte), s.mem.wf → exec i s = .next t →
    storeTarget i s = some (ea, v) →
    (fetchByte { t with pc := ea }).1 = v ∧ (instructionBytes { t with pc := ea }).head? = some v
end

