-- ==== Sys2Proof/Laws/Flags.lean ====
section
/-! SUPPORT. The flag update of `SetZN`, case by case (spec/10_state.md R27). -/

namespace Sys2Proof.Machine

@[simp] theorem flagFrom_true (setOnly : Bool) (p : Byte) (f : Flag) :
    flagFrom setOnly p f true = setFlag p f := rfl

@[simp] theorem flagFrom_setOnly_false (p : Byte) (f : Flag) : flagFrom true p f false = p := rfl

@[simp] theorem flagFrom_clearing_false (p : Byte) (f : Flag) :
    flagFrom false p f false = clearFlag p f := rfl

/-- Different flags have different bits. -/
theorem Flag.pos_injective {f g : Flag} (h : f.pos = g.pos) : f = g := by
  cases f <;> cases g <;> first | rfl | exact absurd h (by decide)

/-- A flag's bit is one of the eight. -/
theorem Flag.pos_lt (f : Flag) : f.pos < 8 := by cases f <;> decide

/-- The mask of a flag has that bit and no other. -/
theorem flagMask_getLsbD (f : Flag) (k : Nat) : (flagMask f).getLsbD k = decide (k = f.pos) := by
  have hf := f.pos_lt
  simp only [flagMask, BitVec.getLsbD_shiftLeft, BitVec.getLsbD_one]
  by_cases h : k = f.pos
  · subst h
    simp [hf]
  · by_cases h' : k < f.pos
    · simp [h, h']
    · simp only [h, h', decide_false, Bool.not_false, Bool.and_true, Bool.and_eq_false_iff]
      right
      right
      simp
      omega

/-- A flag other than the one updated is as before. -/
theorem isFlagSet_flagFrom_other (setOnly : Bool) (p : Byte) (f g : Flag) (cond : Bool) (h : g ≠ f) :
    isFlagSet (flagFrom setOnly p f cond) g = isFlagSet p g := by
  have hmask : (flagMask f).getLsbD g.pos = false := by
    rw [flagMask_getLsbD, decide_eq_false_iff_not]
    exact fun e => h (Flag.pos_injective e)
  have hg := g.pos_lt
  cases cond <;> cases setOnly <;>
    simp only [flagFrom, isFlagSet, setFlag, clearFlag, BitVec.getLsbD_or, BitVec.getLsbD_and,
      BitVec.getLsbD_not, hmask, hg, decide_true, Bool.not_false, Bool.and_true, Bool.or_false,
      if_true, if_false, Bool.false_eq_true]

end Sys2Proof.Machine
end

