-- ==== Sys2Proof/Laws/Memory.lean ====
section
/-! SUPPORT. The laws of the memory block: read after write, and that every operation keeps the
canonical form. -/

namespace Sys2Proof.Machine

/-- What the canonical form says of a list with a first entry. -/
theorem wf_cons {c : Host.Cell} {m : Memory} :
    Memory.wf (c :: m) ↔
      (∀ d ∈ m, c.1 < d.1) ∧ (c.1 < 65536 ∧ c.2 ≠ unlistedByte) ∧ Memory.wf m := by
  simp only [Memory.wf, List.pairwise_cons, List.forall_mem_cons]
  tauto

theorem wf_initialize : Memory.wf memInitialize := by decide

/-- An address below every listed one is not listed. -/
theorem cellRead_of_below {m : Memory} {k : Nat} (h : ∀ d ∈ m, k < d.1) :
    cellRead m k = unlistedByte := by
  induction m with
  | nil => rfl
  | cons c m ih =>
    have hc : k ≠ c.1 := Nat.ne_of_lt (h c (List.mem_cons_self ..))
    simp only [cellRead, hc, if_false]
    exact ih fun d hd => h d (List.mem_cons_of_mem _ hd)

/-- A listed entry after a write is the entry written or an entry listed before. -/
theorem mem_cellWrite {m : Memory} {k : Nat} {v : Byte} {c : Host.Cell} (h : c ∈ cellWrite m k v) :
    (c = (k, v) ∧ v ≠ unlistedByte) ∨ c ∈ m := by
  induction m with
  | nil =>
    simp only [cellWrite] at h
    split at h <;> simp_all
  | cons d m ih =>
    simp only [cellWrite] at h
    split_ifs at h
    · exact .inr h
    · rcases List.mem_cons.mp h with rfl | h
      · exact .inl ⟨rfl, ‹_›⟩
      · exact .inr h
    · exact .inr (List.mem_cons_of_mem _ h)
    · rcases List.mem_cons.mp h with rfl | h
      · exact .inl ⟨rfl, ‹_›⟩
      · exact .inr (List.mem_cons_of_mem _ h)
    · rcases List.mem_cons.mp h with rfl | h
      · exact .inr (List.mem_cons_self ..)
      · exact (ih h).imp id (List.mem_cons_of_mem _)

/-- A write keeps the canonical form. -/
theorem wf_cellWrite {m : Memory} {k : Nat} (v : Byte) (hm : m.wf) (hk : k < 65536) :
    Memory.wf (cellWrite m k v) := by
  induction m with
  | nil =>
    simp only [cellWrite]
    split_ifs with hv
    · exact hm
    · exact wf_cons.mpr ⟨by simp, ⟨hk, hv⟩, hm⟩
  | cons d m ih =>
    obtain ⟨hlt, hd, htail⟩ := wf_cons.mp hm
    simp only [cellWrite]
    split_ifs with h1 hv h2 hv
    · exact hm
    · refine wf_cons.mpr ⟨fun c hc => ?_, ⟨hk, hv⟩, hm⟩
      rcases List.mem_cons.mp hc with rfl | hc
      · exact h1
      · exact h1.trans (hlt c hc)
    · exact htail
    · exact wf_cons.mpr ⟨fun c hc => h2 ▸ hlt c hc, ⟨hk, hv⟩, htail⟩
    · refine wf_cons.mpr ⟨fun c hc => ?_, hd, ih htail⟩
      rcases mem_cellWrite hc with ⟨rfl, -⟩ | hc
      · show d.1 < k
        omega
      · exact hlt c hc

theorem wf_memWrite {m : Memory} (a : Word) (v : Byte) (hm : m.wf) : Memory.wf (memWrite m a v) :=
  wf_cellWrite v hm a.isLt

/-- Every other cell reads as before, in any list. -/
theorem cellRead_cellWrite_other (m : Memory) {j k : Nat} (v : Byte) (h : j ≠ k) :
    cellRead (cellWrite m k v) j = cellRead m j := by
  induction m with
  | nil =>
    simp only [cellWrite]
    split_ifs <;> simp [cellRead, h]
  | cons d m ih =>
    simp only [cellWrite]
    split_ifs with h1 hv h2 hv
    · rfl
    · simp [cellRead, h]
    · subst h2
      simp [cellRead, h]
    · subst h2
      simp [cellRead, h]
    · simp only [cellRead, ih]

/-- The cell written reads back, in a canonical memory. -/
theorem cellRead_cellWrite_same {m : Memory} (k : Nat) (v : Byte) (hm : m.wf) :
    cellRead (cellWrite m k v) k = v := by
  induction m with
  | nil =>
    simp only [cellWrite]
    split_ifs with hv <;> simp [cellRead, hv]
  | cons d m ih =>
    obtain ⟨hlt, -, htail⟩ := wf_cons.mp hm
    simp only [cellWrite]
    split_ifs with h1 hv h2 hv
    · have below : ∀ c ∈ d :: m, k < c.1 := by
        intro c hc
        rcases List.mem_cons.mp hc with rfl | hc
        · exact h1
        · exact h1.trans (hlt c hc)
      exact (cellRead_of_below below).trans hv.symm
    · simp [cellRead]
    · exact (cellRead_of_below (h2 ▸ hlt)).trans hv.symm
    · simp [cellRead]
    · simp only [cellRead, h2, if_false]
      exact ih htail

theorem memRead_memWrite_same {m : Memory} (a : Word) (v : Byte) (hm : m.wf) :
    memRead (memWrite m a v) a = v :=
  cellRead_cellWrite_same _ v hm

theorem memRead_memWrite_other (m : Memory) {a b : Word} (v : Byte) (h : b ≠ a) :
    memRead (memWrite m a v) b = memRead m b :=
  cellRead_cellWrite_other m v fun e => h (BitVec.eq_of_toNat_eq e)

@[simp] theorem memRead_initialize (a : Word) : memRead memInitialize a = unlistedByte := rfl

end Sys2Proof.Machine
end

