-- ==== Sys2Proof/Laws/State.lean ====
section
/-! SUPPORT. For each elementary update of the state, what each field is after it. -/

namespace Sys2Proof.Machine

variable (s : State)

/-! ### `setSp` -/

@[simp] theorem setSp_pc (v : Byte) : (setSp v s).pc = s.pc := rfl
@[simp] theorem setSp_sp (v : Byte) : (setSp v s).sp = v := rfl
@[simp] theorem setSp_a (v : Byte) : (setSp v s).a = s.a := rfl
@[simp] theorem setSp_x (v : Byte) : (setSp v s).x = s.x := rfl
@[simp] theorem setSp_y (v : Byte) : (setSp v s).y = s.y := rfl
@[simp] theorem setSp_p (v : Byte) : (setSp v s).p = s.p := rfl
@[simp] theorem setSp_mem (v : Byte) : (setSp v s).mem = s.mem := rfl
@[simp] theorem setSp_cyc (v : Byte) : (setSp v s).cyc = s.cyc := rfl
@[simp] theorem setSp_run (v : Byte) : (setSp v s).run = s.run := rfl
@[simp] theorem setSp_inbox (v : Byte) : (setSp v s).inbox = s.inbox := rfl
@[simp] theorem setSp_config (v : Byte) : (setSp v s).config = s.config := rfl

/-! ### `setP` -/

@[simp] theorem setP_pc (v : Byte) : (setP v s).pc = s.pc := rfl
@[simp] theorem setP_sp (v : Byte) : (setP v s).sp = s.sp := rfl
@[simp] theorem setP_a (v : Byte) : (setP v s).a = s.a := rfl
@[simp] theorem setP_x (v : Byte) : (setP v s).x = s.x := rfl
@[simp] theorem setP_y (v : Byte) : (setP v s).y = s.y := rfl
@[simp] theorem setP_p (v : Byte) : (setP v s).p = v := rfl
@[simp] theorem setP_mem (v : Byte) : (setP v s).mem = s.mem := rfl
@[simp] theorem setP_cyc (v : Byte) : (setP v s).cyc = s.cyc := rfl
@[simp] theorem setP_run (v : Byte) : (setP v s).run = s.run := rfl
@[simp] theorem setP_inbox (v : Byte) : (setP v s).inbox = s.inbox := rfl
@[simp] theorem setP_config (v : Byte) : (setP v s).config = s.config := rfl

/-! ### `advancePc` -/

@[simp] theorem advancePc_pc (n : Word) : (advancePc n s).pc = s.pc + n := rfl
@[simp] theorem advancePc_sp (n : Word) : (advancePc n s).sp = s.sp := rfl
@[simp] theorem advancePc_a (n : Word) : (advancePc n s).a = s.a := rfl
@[simp] theorem advancePc_x (n : Word) : (advancePc n s).x = s.x := rfl
@[simp] theorem advancePc_y (n : Word) : (advancePc n s).y = s.y := rfl
@[simp] theorem advancePc_p (n : Word) : (advancePc n s).p = s.p := rfl
@[simp] theorem advancePc_mem (n : Word) : (advancePc n s).mem = s.mem := rfl
@[simp] theorem advancePc_cyc (n : Word) : (advancePc n s).cyc = s.cyc := rfl
@[simp] theorem advancePc_run (n : Word) : (advancePc n s).run = s.run := rfl
@[simp] theorem advancePc_inbox (n : Word) : (advancePc n s).inbox = s.inbox := rfl
@[simp] theorem advancePc_config (n : Word) : (advancePc n s).config = s.config := rfl

/-! ### `tick` -/

@[simp] theorem tick_pc (n : Nat) : (tick n s).pc = s.pc := rfl
@[simp] theorem tick_sp (n : Nat) : (tick n s).sp = s.sp := rfl
@[simp] theorem tick_a (n : Nat) : (tick n s).a = s.a := rfl
@[simp] theorem tick_x (n : Nat) : (tick n s).x = s.x := rfl
@[simp] theorem tick_y (n : Nat) : (tick n s).y = s.y := rfl
@[simp] theorem tick_p (n : Nat) : (tick n s).p = s.p := rfl
@[simp] theorem tick_mem (n : Nat) : (tick n s).mem = s.mem := rfl
@[simp] theorem tick_cyc (n : Nat) : (tick n s).cyc = s.cyc - n := rfl
@[simp] theorem tick_run (n : Nat) : (tick n s).run = s.run := rfl
@[simp] theorem tick_inbox (n : Nat) : (tick n s).inbox = s.inbox := rfl
@[simp] theorem tick_config (n : Nat) : (tick n s).config = s.config := rfl

/-! ### `storeCell` -/

@[simp] theorem storeCell_pc (c : Word) (v : Byte) : (storeCell c v s).pc = s.pc := rfl
@[simp] theorem storeCell_sp (c : Word) (v : Byte) : (storeCell c v s).sp = s.sp := rfl
@[simp] theorem storeCell_a (c : Word) (v : Byte) : (storeCell c v s).a = s.a := rfl
@[simp] theorem storeCell_x (c : Word) (v : Byte) : (storeCell c v s).x = s.x := rfl
@[simp] theorem storeCell_y (c : Word) (v : Byte) : (storeCell c v s).y = s.y := rfl
@[simp] theorem storeCell_p (c : Word) (v : Byte) : (storeCell c v s).p = s.p := rfl
@[simp] theorem storeCell_mem (c : Word) (v : Byte) : (storeCell c v s).mem = memWrite s.mem c v := rfl
@[simp] theorem storeCell_cyc (c : Word) (v : Byte) : (storeCell c v s).cyc = s.cyc := rfl
@[simp] theorem storeCell_run (c : Word) (v : Byte) : (storeCell c v s).run = s.run := rfl
@[simp] theorem storeCell_inbox (c : Word) (v : Byte) : (storeCell c v s).inbox = s.inbox := rfl
@[simp] theorem storeCell_config (c : Word) (v : Byte) : (storeCell c v s).config = s.config := rfl

/-! ### `setRun` -/

@[simp] theorem setRun_pc (r : RunState) : (setRun r s).pc = s.pc := rfl
@[simp] theorem setRun_sp (r : RunState) : (setRun r s).sp = s.sp := rfl
@[simp] theorem setRun_a (r : RunState) : (setRun r s).a = s.a := rfl
@[simp] theorem setRun_x (r : RunState) : (setRun r s).x = s.x := rfl
@[simp] theorem setRun_y (r : RunState) : (setRun r s).y = s.y := rfl
@[simp] theorem setRun_p (r : RunState) : (setRun r s).p = s.p := rfl
@[simp] theorem setRun_mem (r : RunState) : (setRun r s).mem = s.mem := rfl
@[simp] theorem setRun_cyc (r : RunState) : (setRun r s).cyc = s.cyc := rfl
@[simp] theorem setRun_run (r : RunState) : (setRun r s).run = r := rfl
@[simp] theorem setRun_inbox (r : RunState) : (setRun r s).inbox = s.inbox := rfl
@[simp] theorem setRun_config (r : RunState) : (setRun r s).config = s.config := rfl

/-! ### `applyZN` -/

@[simp] theorem applyZN_pc (v : Byte) : (applyZN v s).pc = s.pc := rfl
@[simp] theorem applyZN_sp (v : Byte) : (applyZN v s).sp = s.sp := rfl
@[simp] theorem applyZN_a (v : Byte) : (applyZN v s).a = s.a := rfl
@[simp] theorem applyZN_x (v : Byte) : (applyZN v s).x = s.x := rfl
@[simp] theorem applyZN_y (v : Byte) : (applyZN v s).y = s.y := rfl
@[simp] theorem applyZN_p (v : Byte) : (applyZN v s).p = setZN s.config s.p v := rfl
@[simp] theorem applyZN_mem (v : Byte) : (applyZN v s).mem = s.mem := rfl
@[simp] theorem applyZN_cyc (v : Byte) : (applyZN v s).cyc = s.cyc := rfl
@[simp] theorem applyZN_run (v : Byte) : (applyZN v s).run = s.run := rfl
@[simp] theorem applyZN_inbox (v : Byte) : (applyZN v s).inbox = s.inbox := rfl
@[simp] theorem applyZN_config (v : Byte) : (applyZN v s).config = s.config := rfl

/-! ### `raise` -/

@[simp] theorem raise_pc (c : FaultCause) : (raise c s).pc = s.pc := rfl
@[simp] theorem raise_sp (c : FaultCause) : (raise c s).sp = s.sp := rfl
@[simp] theorem raise_a (c : FaultCause) : (raise c s).a = s.a := rfl
@[simp] theorem raise_x (c : FaultCause) : (raise c s).x = s.x := rfl
@[simp] theorem raise_y (c : FaultCause) : (raise c s).y = s.y := rfl
@[simp] theorem raise_p (c : FaultCause) : (raise c s).p = s.p := rfl
@[simp] theorem raise_mem (c : FaultCause) : (raise c s).mem = s.mem := rfl
@[simp] theorem raise_cyc (c : FaultCause) : (raise c s).cyc = s.cyc := rfl
@[simp] theorem raise_run (c : FaultCause) : (raise c s).run = .faulted c := rfl
@[simp] theorem raise_inbox (c : FaultCause) : (raise c s).inbox = s.inbox := rfl
@[simp] theorem raise_config (c : FaultCause) : (raise c s).config = s.config := rfl

/-! ### `writeReg` and `readReg` -/

@[simp] theorem writeReg_pc (r : Reg) (v : Byte) : (writeReg r v s).pc = s.pc := by cases r <;> rfl
@[simp] theorem writeReg_sp (r : Reg) (v : Byte) : (writeReg r v s).sp = s.sp := by cases r <;> rfl
@[simp] theorem writeReg_p (r : Reg) (v : Byte) : (writeReg r v s).p = s.p := by cases r <;> rfl
@[simp] theorem writeReg_mem (r : Reg) (v : Byte) : (writeReg r v s).mem = s.mem := by cases r <;> rfl
@[simp] theorem writeReg_cyc (r : Reg) (v : Byte) : (writeReg r v s).cyc = s.cyc := by cases r <;> rfl
@[simp] theorem writeReg_run (r : Reg) (v : Byte) : (writeReg r v s).run = s.run := by cases r <;> rfl
@[simp] theorem writeReg_inbox (r : Reg) (v : Byte) : (writeReg r v s).inbox = s.inbox := by cases r <;> rfl
@[simp] theorem writeReg_config (r : Reg) (v : Byte) : (writeReg r v s).config = s.config := by cases r <;> rfl
@[simp] theorem writeReg_a_a (v : Byte) : (writeReg .a v s).a = v := rfl
@[simp] theorem writeReg_a_x (v : Byte) : (writeReg .a v s).x = s.x := rfl
@[simp] theorem writeReg_a_y (v : Byte) : (writeReg .a v s).y = s.y := rfl
@[simp] theorem writeReg_x_a (v : Byte) : (writeReg .x v s).a = s.a := rfl
@[simp] theorem writeReg_x_x (v : Byte) : (writeReg .x v s).x = v := rfl
@[simp] theorem writeReg_x_y (v : Byte) : (writeReg .x v s).y = s.y := rfl
@[simp] theorem writeReg_y_a (v : Byte) : (writeReg .y v s).a = s.a := rfl
@[simp] theorem writeReg_y_x (v : Byte) : (writeReg .y v s).x = s.x := rfl
@[simp] theorem writeReg_y_y (v : Byte) : (writeReg .y v s).y = v := rfl

@[simp] theorem readReg_a : readReg .a s = s.a := rfl
@[simp] theorem readReg_x : readReg .x s = s.x := rfl
@[simp] theorem readReg_y : readReg .y s = s.y := rfl

theorem readReg_writeReg_same (r : Reg) (v : Byte) : readReg r (writeReg r v s) = v := by
  cases r <;> rfl

theorem readReg_writeReg_other (r q : Reg) (v : Byte) (h : q ≠ r) :
    readReg q (writeReg r v s) = readReg q s := by
  cases r <;> cases q <;> first | rfl | exact absurd rfl h

/-- Two charges of the meter are one charge of their sum. -/
theorem tick_tick (m n : Nat) : tick m (tick n s) = tick (n + m) s := by
  simp only [tick, State.mk.injEq, and_true, true_and]
  omega

end Sys2Proof.Machine
end

