-- ==== Sys2Proof/Laws/HostMoves.lean ====
section
/-! SUPPORT. What a move of the host changes of the run state, the meter and the memory. -/

namespace Sys2Proof.Machine

theorem beginExecute_faulted {s : State} {c : FaultCause} (b : Nat) (h : s.run = .faulted c) :
    beginExecute b s = s := by
  simp [beginExecute, h]

theorem beginExecute_unfaulted {s : State} (b : Nat) (h : ∀ c, s.run ≠ .faulted c) :
    beginExecute b s = { s with cyc := b, run := if 0 < b then .running else .halted } := by
  unfold beginExecute
  split
  · exact absurd ‹_› (h _)
  · rfl

@[simp] theorem beginExecute_mem (b : Nat) (s : State) : (beginExecute b s).mem = s.mem := by
  unfold beginExecute
  split <;> rfl

@[simp] theorem beginExecute_inbox (b : Nat) (s : State) : (beginExecute b s).inbox = s.inbox := by
  unfold beginExecute
  split <;> rfl

@[simp] theorem beginExecute_config (b : Nat) (s : State) : (beginExecute b s).config = s.config := by
  unfold beginExecute
  split <;> rfl

/-- No move of the host touches the moves after it. -/
@[simp] theorem applyHostMove_inbox (m : HostMove) (s : State) :
    (applyHostMove m s).inbox = s.inbox := by
  cases m <;> simp [applyHostMove, performReset]

/-- No move of the host touches the parameters. -/
@[simp] theorem applyHostMove_config (m : HostMove) (s : State) :
    (applyHostMove m s).config = s.config := by
  cases m <;> simp [applyHostMove, performReset]

/-- Every move of the host keeps the canonical form. -/
theorem wf_applyHostMove (m : HostMove) {s : State} (h : s.mem.wf) : (applyHostMove m s).mem.wf := by
  cases m
  case reset => exact wf_initialize
  case execute b => simpa [applyHostMove] using h
  case writeMem a v => exact wf_memWrite a v h
  case writeReg r v => simpa [applyHostMove] using h
  all_goals exact h

/-- Only the two transactions touch the run state and the meter. -/
theorem applyHostMove_run_cyc (m : HostMove) (s : State) (hr : m ≠ .reset)
    (he : ∀ b, m ≠ .execute b) :
    (applyHostMove m s).run = s.run ∧ (applyHostMove m s).cyc = s.cyc := by
  cases m
  case reset => exact absurd rfl hr
  case execute b => exact absurd rfl (he b)
  all_goals simp [applyHostMove]

end Sys2Proof.Machine
end

