-- ==== Sys2Proof/Laws/Operands.lean ====
section
/-! SUPPORT. What each bus primitive and each resolver does to the state, said once in terms of
`advancePc` and `tick`. -/

namespace Sys2Proof.Machine

variable (s : State)

@[simp] theorem consumeByte_eq : consumeByte s = tick 1 (advancePc 1 s) := rfl
@[simp] theorem consumeWord_eq : consumeWord s = tick 2 (advancePc 2 s) := rfl
@[simp] theorem fetchByte_fst : (fetchByte s).1 = memRead s.mem s.pc := rfl
@[simp] theorem fetchByte_snd : (fetchByte s).2 = tick 1 (advancePc 1 s) := rfl
@[simp] theorem readByte_fst (a : Word) : (readByte a s).1 = memRead s.mem a := rfl
@[simp] theorem readByte_snd (a : Word) : (readByte a s).2 = tick 1 s := rfl

@[simp] theorem readPointer_snd (p : Byte) : (readPointer p s).2 = tick 2 s := rfl

/-- The value of a pointer read depends on the memory and the parameters alone. -/
@[simp] theorem readPointer_fst (p : Byte) :
    (readPointer p s).1 =
      wordOf (memRead s.mem (pointerHighAddr s.config.zpPtrWrap p)) (memRead s.mem (zext16 p)) := rfl

/-- With no wrap a pointer read is `ReadWord`. -/
theorem readPointer_noWrap (p : Byte) (h : s.config.zpPtrWrap = false) :
    readPointer p s = readWord (zext16 p) s := by
  simp [readPointer, readWord, pointerHighAddr, h]

/-- The cycles an indexing caller pays (spec/40_addressing.md R119). -/
def penaltyCycles (fixed : Bool) (base ea : Word) : Nat := if fixed || crossed base ea then 1 else 0

@[simp] theorem indexPenalty_eq (fixed : Bool) (base ea : Word) :
    indexPenalty fixed base ea s = tick (penaltyCycles fixed base ea) s := by
  unfold indexPenalty penaltyCycles
  split
  · rfl
  · simp [tick]

/-- A resolver's effect on the state is to move `PC` and charge cycles. -/
def OnlyPcAndMeter (s t : State) : Prop := ∃ (n : Word) (k : Nat), t = tick k (advancePc n s)

theorem OnlyPcAndMeter.intro (n : Word) (k : Nat) : OnlyPcAndMeter s (tick k (advancePc n s)) :=
  ⟨n, k, rfl⟩

theorem addrZeroPage_effect (d : Byte) : OnlyPcAndMeter s (addrZeroPage d s).2 := ⟨1, 1, rfl⟩

theorem addrZeroPageX_effect (d : Byte) : OnlyPcAndMeter s (addrZeroPageX d s).2 :=
  ⟨1, 2, by simp [addrZeroPageX, tick_tick]⟩

theorem addrZeroPageY_effect (d : Byte) : OnlyPcAndMeter s (addrZeroPageY d s).2 :=
  ⟨1, 2, by simp [addrZeroPageY, tick_tick]⟩

theorem addrAbsolute_effect (w : Word) : OnlyPcAndMeter s (addrAbsolute w s).2 := ⟨2, 2, rfl⟩

theorem addrAbsoluteX_effect (fixed : Bool) (w : Word) :
    OnlyPcAndMeter s (addrAbsoluteX fixed w s).2 :=
  ⟨2, 2 + penaltyCycles fixed w (w + zext16 s.x), by simp [addrAbsoluteX, indexed, tick_tick]⟩

theorem addrAbsoluteY_effect (fixed : Bool) (w : Word) :
    OnlyPcAndMeter s (addrAbsoluteY fixed w s).2 :=
  ⟨2, 2 + penaltyCycles fixed w (w + zext16 s.y), by simp [addrAbsoluteY, indexed, tick_tick]⟩

theorem addrIndirect_effect (w : Word) : OnlyPcAndMeter s (addrIndirect w s).2 :=
  ⟨2, 4, by simp [addrIndirect, readWord, tick_tick]⟩

theorem addrIndirectX_effect (d : Byte) : OnlyPcAndMeter s (addrIndirectX d s).2 :=
  ⟨1, 4, by simp [addrIndirectX, tick_tick]⟩

theorem addrIndirectY_effect (fixed : Bool) (d : Byte) :
    OnlyPcAndMeter s (addrIndirectY fixed d s).2 :=
  ⟨1, 3 + penaltyCycles fixed (readPointer d s).1 ((readPointer d s).1 + zext16 s.y), by
    simp [addrIndirectY, indexed, tick_tick]⟩

theorem addrRelative_effect (d : Byte) : OnlyPcAndMeter s (addrRelative d s).2 :=
  ⟨1, 2, by simp [addrRelative, tick_tick]⟩

end Sys2Proof.Machine
end

