-- ==== Sys2Proof/Laws/Meanings.lean ====
section
/-! SUPPORT. What the shared operation of each family can answer, said once: a load, a store, a
transfer, a push and the two pulls. -/

namespace Sys2Proof.Machine

/-- A load answers a next state that is the resolved state with one cycle charged, the target written
and `SetZN` applied. -/
theorem load_answers {r : Reg} {ea : Word × State} {t : State} (h : load r ea = .next t) :
    t = applyZN (memRead ea.2.mem ea.1) (writeReg r (memRead ea.2.mem ea.1) (tick 1 ea.2)) := by
  simpa [load, loadValue] using h.symm

theorem loadValue_answers {r : Reg} {m : Byte × State} {t : State} (h : loadValue r m = .next t) :
    t = applyZN m.1 (writeReg r m.1 m.2) := by
  simpa [loadValue] using h.symm

/-- A store answers the resolved state with one cell written and one cycle charged. -/
theorem store_answers {r : Reg} {ea : Word × State} {t : State} (h : store r ea = .next t) :
    t = tick 1 (storeCell ea.1 (readReg r ea.2) ea.2) := by
  simpa [store, writeByte] using h.symm

theorem transferTo_answers {r : Reg} {v : Byte} {s t : State} (h : transferTo r v s = .next t) :
    t = applyZN v (writeReg r v (tick 1 s)) := by
  simpa [transferTo] using h.symm

theorem push_answers {v : Byte} {s t : State} (h : push v s = .next t) :
    t = tick 2 (setSp (s.sp - 1) (storeCell (stackAddr s.sp) v s)) := by
  have e : t = pushToStack v (tick 1 s) := by simpa [push] using h.symm
  rw [e]
  simp only [pushToStack, tick, setSp, storeCell, State.mk.injEq, and_true, true_and]
  omega

/-- The byte a pull answers. -/
theorem pull_fst (s : State) : (pull s).1 = memRead s.mem (stackAddr (s.sp + 1)) := rfl

/-- A pull moves `SP` and charges three cycles. -/
theorem pull_snd (s : State) : (pull s).2 = tick 3 (setSp (s.sp + 1) s) := by
  simp only [pull, popFromStack, tick, setSp, State.mk.injEq, and_true, true_and]
  omega

/-- An answer of a meaning is a next state whose run state, waiting moves and parameters are those it
started from, and whose memory is in canonical form if it was. -/
structure Keeps (s t : State) : Prop where
  run : t.run = s.run
  inbox : t.inbox = s.inbox
  config : t.config = s.config
  memory : s.mem.wf → t.mem.wf

theorem OnlyPcAndMeter.keeps {s t : State} (h : OnlyPcAndMeter s t) : Keeps s t := by
  obtain ⟨n, k, rfl⟩ := h
  exact ⟨rfl, rfl, rfl, id⟩

theorem Keeps.load {s t : State} {r : Reg} {ea : Word × State} (hea : Keeps s ea.2)
    (h : load r ea = .next t) : Keeps s t := by
  rw [load_answers h]
  exact ⟨by simp [hea.run], by simp [hea.inbox], by simp [hea.config], by simpa using hea.memory⟩

theorem Keeps.store {s t : State} {r : Reg} {ea : Word × State} (hea : Keeps s ea.2)
    (h : store r ea = .next t) : Keeps s t := by
  rw [store_answers h]
  exact ⟨by simp [hea.run], by simp [hea.inbox], by simp [hea.config],
    fun hm => by simpa using wf_memWrite _ _ (hea.memory hm)⟩

theorem Keeps.loadImmediate {s t : State} {r : Reg} {d : Byte}
    (h : loadValue r (operandImmediate d s) = .next t) : Keeps s t := by
  rw [loadValue_answers h]
  exact ⟨by simp [operandImmediate], by simp [operandImmediate], by simp [operandImmediate],
    by simp [operandImmediate]⟩

theorem Keeps.transfer {s t : State} {r : Reg} {v : Byte} (h : transferTo r v s = .next t) :
    Keeps s t := by
  rw [transferTo_answers h]
  exact ⟨by simp, by simp, by simp, by simp⟩

theorem Keeps.push {s t : State} {v : Byte} (h : push v s = .next t) : Keeps s t := by
  rw [push_answers h]
  exact ⟨rfl, rfl, rfl, fun hm => wf_memWrite _ _ hm⟩

/-- Every instruction keeps `RUN`, the waiting moves and the parameters, and the canonical form. -/
theorem exec_keeps {i : Instr} {s t : State} (h : exec i s = .next t) : Keeps s t := by
  cases i
  case ldaImm | ldxImm | ldyImm => exact Keeps.loadImmediate h
  case ldaZp | ldxZp | ldyZp => exact Keeps.load (addrZeroPage_effect s _).keeps h
  case ldaZpX | ldyZpX => exact Keeps.load (addrZeroPageX_effect s _).keeps h
  case ldxZpY => exact Keeps.load (addrZeroPageY_effect s _).keeps h
  case ldaAbs | ldxAbs | ldyAbs => exact Keeps.load (addrAbsolute_effect s _).keeps h
  case ldaAbsX | ldyAbsX => exact Keeps.load (addrAbsoluteX_effect s _ _).keeps h
  case ldaAbsY | ldxAbsY => exact Keeps.load (addrAbsoluteY_effect s _ _).keeps h
  case ldaIndX => exact Keeps.load (addrIndirectX_effect s _).keeps h
  case ldaIndY => exact Keeps.load (addrIndirectY_effect s _ _).keeps h
  case staZp | stxZp | styZp => exact Keeps.store (addrZeroPage_effect s _).keeps h
  case staZpX | styZpX => exact Keeps.store (addrZeroPageX_effect s _).keeps h
  case stxZpY => exact Keeps.store (addrZeroPageY_effect s _).keeps h
  case staAbs | stxAbs | styAbs => exact Keeps.store (addrAbsolute_effect s _).keeps h
  case staAbsX => exact Keeps.store (addrAbsoluteX_effect s _ _).keeps h
  case staAbsY => exact Keeps.store (addrAbsoluteY_effect s _ _).keeps h
  case staIndX => exact Keeps.store (addrIndirectX_effect s _).keeps h
  case staIndY => exact Keeps.store (addrIndirectY_effect s _ _).keeps h
  case tax | txa | tay | tya | tsx => exact Keeps.transfer h
  case txs =>
    obtain rfl : setSp s.x (tick 1 s) = t := by simpa [exec, execTxs] using h
    exact ⟨rfl, rfl, rfl, id⟩
  case pha | php => exact Keeps.push h
  case pla =>
    obtain rfl : applyZN (pull s).1 (writeReg .a (pull s).1 (pull s).2) = t := by
      simpa [exec, execPla] using h
    exact ⟨rfl, rfl, rfl, id⟩
  case plp =>
    obtain rfl : setP (pull s).1 (pull s).2 = t := by simpa [exec, execPlp] using h
    exact ⟨rfl, rfl, rfl, id⟩

end Sys2Proof.Machine
end

