-- ==== Sys2Proof/Laws/PerInstr.lean ====
section
/-! SUPPORT. A family of statements about every instruction as a term, one lemma per constructor. -/

/-- The bytes an instruction encodes to have the length its opcode fixes and a mapped opcode
(spec/30_encoding.md R90, R93). -/
def Sys2Proof.Laws.EncodedForm.Statement (i : Sys2Proof.Instr) : Prop :=
  Sys2Proof.wellFormedCode (Sys2Proof.encode i) = true

theorem Sys2Proof.Laws.EncodedForm.ldaImm (d : Sys2Proof.Byte) :
    Sys2Proof.Laws.EncodedForm.Statement (.ldaImm d) := rfl

theorem Sys2Proof.Laws.EncodedForm.ldaZp (d : Sys2Proof.Byte) :
    Sys2Proof.Laws.EncodedForm.Statement (.ldaZp d) := rfl

theorem Sys2Proof.Laws.EncodedForm.ldaZpX (d : Sys2Proof.Byte) :
    Sys2Proof.Laws.EncodedForm.Statement (.ldaZpX d) := rfl

theorem Sys2Proof.Laws.EncodedForm.ldaAbs (w : Sys2Proof.Word) :
    Sys2Proof.Laws.EncodedForm.Statement (.ldaAbs w) := rfl

theorem Sys2Proof.Laws.EncodedForm.ldaAbsX (w : Sys2Proof.Word) :
    Sys2Proof.Laws.EncodedForm.Statement (.ldaAbsX w) := rfl

theorem Sys2Proof.Laws.EncodedForm.ldaAbsY (w : Sys2Proof.Word) :
    Sys2Proof.Laws.EncodedForm.Statement (.ldaAbsY w) := rfl

theorem Sys2Proof.Laws.EncodedForm.ldaIndX (d : Sys2Proof.Byte) :
    Sys2Proof.Laws.EncodedForm.Statement (.ldaIndX d) := rfl

theorem Sys2Proof.Laws.EncodedForm.ldaIndY (d : Sys2Proof.Byte) :
    Sys2Proof.Laws.EncodedForm.Statement (.ldaIndY d) := rfl

theorem Sys2Proof.Laws.EncodedForm.ldxImm (d : Sys2Proof.Byte) :
    Sys2Proof.Laws.EncodedForm.Statement (.ldxImm d) := rfl

theorem Sys2Proof.Laws.EncodedForm.ldxZp (d : Sys2Proof.Byte) :
    Sys2Proof.Laws.EncodedForm.Statement (.ldxZp d) := rfl

theorem Sys2Proof.Laws.EncodedForm.ldxZpY (d : Sys2Proof.Byte) :
    Sys2Proof.Laws.EncodedForm.Statement (.ldxZpY d) := rfl

theorem Sys2Proof.Laws.EncodedForm.ldxAbs (w : Sys2Proof.Word) :
    Sys2Proof.Laws.EncodedForm.Statement (.ldxAbs w) := rfl

theorem Sys2Proof.Laws.EncodedForm.ldxAbsY (w : Sys2Proof.Word) :
    Sys2Proof.Laws.EncodedForm.Statement (.ldxAbsY w) := rfl

theorem Sys2Proof.Laws.EncodedForm.ldyImm (d : Sys2Proof.Byte) :
    Sys2Proof.Laws.EncodedForm.Statement (.ldyImm d) := rfl

theorem Sys2Proof.Laws.EncodedForm.ldyZp (d : Sys2Proof.Byte) :
    Sys2Proof.Laws.EncodedForm.Statement (.ldyZp d) := rfl

theorem Sys2Proof.Laws.EncodedForm.ldyZpX (d : Sys2Proof.Byte) :
    Sys2Proof.Laws.EncodedForm.Statement (.ldyZpX d) := rfl

theorem Sys2Proof.Laws.EncodedForm.ldyAbs (w : Sys2Proof.Word) :
    Sys2Proof.Laws.EncodedForm.Statement (.ldyAbs w) := rfl

theorem Sys2Proof.Laws.EncodedForm.ldyAbsX (w : Sys2Proof.Word) :
    Sys2Proof.Laws.EncodedForm.Statement (.ldyAbsX w) := rfl

theorem Sys2Proof.Laws.EncodedForm.staZp (d : Sys2Proof.Byte) :
    Sys2Proof.Laws.EncodedForm.Statement (.staZp d) := rfl

theorem Sys2Proof.Laws.EncodedForm.staZpX (d : Sys2Proof.Byte) :
    Sys2Proof.Laws.EncodedForm.Statement (.staZpX d) := rfl

theorem Sys2Proof.Laws.EncodedForm.staAbs (w : Sys2Proof.Word) :
    Sys2Proof.Laws.EncodedForm.Statement (.staAbs w) := rfl

theorem Sys2Proof.Laws.EncodedForm.staAbsX (w : Sys2Proof.Word) :
    Sys2Proof.Laws.EncodedForm.Statement (.staAbsX w) := rfl

theorem Sys2Proof.Laws.EncodedForm.staAbsY (w : Sys2Proof.Word) :
    Sys2Proof.Laws.EncodedForm.Statement (.staAbsY w) := rfl

theorem Sys2Proof.Laws.EncodedForm.staIndX (d : Sys2Proof.Byte) :
    Sys2Proof.Laws.EncodedForm.Statement (.staIndX d) := rfl

theorem Sys2Proof.Laws.EncodedForm.staIndY (d : Sys2Proof.Byte) :
    Sys2Proof.Laws.EncodedForm.Statement (.staIndY d) := rfl

theorem Sys2Proof.Laws.EncodedForm.stxZp (d : Sys2Proof.Byte) :
    Sys2Proof.Laws.EncodedForm.Statement (.stxZp d) := rfl

theorem Sys2Proof.Laws.EncodedForm.stxZpY (d : Sys2Proof.Byte) :
    Sys2Proof.Laws.EncodedForm.Statement (.stxZpY d) := rfl

theorem Sys2Proof.Laws.EncodedForm.stxAbs (w : Sys2Proof.Word) :
    Sys2Proof.Laws.EncodedForm.Statement (.stxAbs w) := rfl

theorem Sys2Proof.Laws.EncodedForm.styZp (d : Sys2Proof.Byte) :
    Sys2Proof.Laws.EncodedForm.Statement (.styZp d) := rfl

theorem Sys2Proof.Laws.EncodedForm.styZpX (d : Sys2Proof.Byte) :
    Sys2Proof.Laws.EncodedForm.Statement (.styZpX d) := rfl

theorem Sys2Proof.Laws.EncodedForm.styAbs (w : Sys2Proof.Word) :
    Sys2Proof.Laws.EncodedForm.Statement (.styAbs w) := rfl

theorem Sys2Proof.Laws.EncodedForm.tax :
    Sys2Proof.Laws.EncodedForm.Statement .tax := rfl

theorem Sys2Proof.Laws.EncodedForm.txa :
    Sys2Proof.Laws.EncodedForm.Statement .txa := rfl

theorem Sys2Proof.Laws.EncodedForm.tay :
    Sys2Proof.Laws.EncodedForm.Statement .tay := rfl

theorem Sys2Proof.Laws.EncodedForm.tya :
    Sys2Proof.Laws.EncodedForm.Statement .tya := rfl

theorem Sys2Proof.Laws.EncodedForm.tsx :
    Sys2Proof.Laws.EncodedForm.Statement .tsx := rfl

theorem Sys2Proof.Laws.EncodedForm.txs :
    Sys2Proof.Laws.EncodedForm.Statement .txs := rfl

theorem Sys2Proof.Laws.EncodedForm.pha :
    Sys2Proof.Laws.EncodedForm.Statement .pha := rfl

theorem Sys2Proof.Laws.EncodedForm.php :
    Sys2Proof.Laws.EncodedForm.Statement .php := rfl

theorem Sys2Proof.Laws.EncodedForm.pla :
    Sys2Proof.Laws.EncodedForm.Statement .pla := rfl

theorem Sys2Proof.Laws.EncodedForm.plp :
    Sys2Proof.Laws.EncodedForm.Statement .plp := rfl
end

