-- ==== Sys2Proof/Laws/Step.lean ====
section
/-! SUPPORT. What one step can do, said once. -/

namespace Sys2Proof.Machine

theorem step_running {s : State} (h : s.run = .running) : step s = stepRunning s := by
  simp [step, h]

theorem step_notRunning {s : State} (h : s.run ≠ .running) : step s = .next (stepNotRunning s) := by
  unfold step
  split
  · exact absurd ‹_› h
  · rfl

theorem stepNotRunning_idle {s : State} (h : s.inbox = []) : stepNotRunning s = s := by
  simp [stepNotRunning, h]

theorem stepNotRunning_move {s : State} {m : HostMove} {rest : List HostMove}
    (h : s.inbox = m :: rest) : stepNotRunning s = applyHostMove m { s with inbox := rest } := by
  simp [stepNotRunning, h]

/-- The state after the opcode fetch. -/
theorem fetched_state (s : State) :
    (fetchByte s).2 = { s with pc := s.pc + 1, cyc := s.cyc - 1 } := rfl

/-- Running one instruction raises UnknownOpcode where the bytes do not decode, and is `exec` where they
do. -/
theorem runInstruction_none {s : State} (h : nextInstr s = none) :
    runInstruction s =
      .next (raise (.unknownOpcode (memRead s.mem s.pc) s.pc) (fetchByte s).2) := by
  simp [runInstruction, h]

theorem runInstruction_some {s : State} {i : Instr} (h : nextInstr s = some i) :
    runInstruction s = exec i (fetchByte s).2 := by
  simp [runInstruction, h]

/-- Every way a step can answer a next state: the Running core's meter is used up, it raises a fault, or
it performs an instruction and makes the loop test; the core that is not Running idles, or makes the
host's next move. -/
theorem step_cases {s t : State} (h : step s = .next t) :
    (s.run = .running ∧ s.cyc ≤ 0 ∧ t = setRun .halted s) ∨
    (s.run = .running ∧ 0 < s.cyc ∧ nextInstr s = none ∧
      t = raise (.unknownOpcode (memRead s.mem s.pc) s.pc) (fetchByte s).2) ∨
    (s.run = .running ∧ 0 < s.cyc ∧ ∃ i u, nextInstr s = some i ∧
      exec i (fetchByte s).2 = .next u ∧
      t = setRun (if 0 < u.cyc then .running else .halted) u) ∨
    (s.run ≠ .running ∧ s.inbox = [] ∧ t = s) ∨
    (s.run ≠ .running ∧ ∃ m rest, s.inbox = m :: rest ∧
      t = applyHostMove m { s with inbox := rest }) := by
  by_cases hr : s.run = .running
  · rw [step_running hr, stepRunning] at h
    split_ifs at h with hc
    · cases hi : nextInstr s with
      | none =>
        rw [runInstruction_none hi] at h
        exact .inr (.inl ⟨hr, hc, rfl, by simpa [afterInstruction] using h.symm⟩)
      | some i =>
        rw [runInstruction_some hi] at h
        cases hu : exec i (fetchByte s).2 with
        | next u =>
          rw [hu] at h
          have hk : u.run = .running := by simpa [hr] using (exec_keeps hu).run
          exact .inr (.inr (.inl ⟨hr, hc, i, u, rfl, hu, by simpa [afterInstruction, hk] using h.symm⟩))
        | fault r =>
          rw [hu] at h
          exact absurd h (by simp)
        | refused r =>
          rw [hu] at h
          exact absurd h (by simp)
    · exact .inl ⟨hr, by omega, by simpa using h.symm⟩
  · rw [step_notRunning hr] at h
    obtain rfl : stepNotRunning s = t := by simpa using h
    cases hb : s.inbox with
    | nil => exact .inr (.inr (.inr (.inl ⟨hr, rfl, stepNotRunning_idle hb⟩)))
    | cons m rest => exact .inr (.inr (.inr (.inr ⟨hr, m, rest, rfl, stepNotRunning_move hb⟩)))

/-- One step at the front of a run. -/
theorem runSteps_succ {s t : State} (k : Nat) (h : step s = .next t) :
    runSteps (k + 1) s = runSteps k t := by
  simp [runSteps, h]

end Sys2Proof.Machine
end

