-- ==== Sys2Proof/Tests/Slice0.lean ====
section
/-! SUPPORT. Tests.  Expected results are those of spec/95_test_vectors.md (a test names its vector) or
are worked out by hand from the encodings of R93; none is the model's own answer.  Then one witness for
the hypotheses of every obligation that has some. -/

namespace Sys2Proof.Tests

open Sys2Proof.Machine Sys2Proof.Spec

/-! ## Helpers -/

/-- The standard start state of the vectors in an Execute call with 8 cycles left: the code at `pc`, then
the other cells. -/
def start (pc : Word) (code : List Byte) (cells : List (Word × Byte)) : State :=
  { State.reset with
    pc := pc
    mem := cells.foldl (fun m c => memWrite m c.1 c.2) (placeBytes code pc [])
    cyc := 8
    run := .running }

/-- The usual place, 0x0200. -/
def code (bytes : List Byte) (cells : List (Word × Byte)) : State := start 0x0200#16 bytes cells

/-- The same with the parameter `ZN_SET_ONLY = false`. -/
def clearing (s : State) : State := { s with config := { s.config with znSetOnly := false } }

/-- The same with the parameter `ZP_PTR_WRAP = true`. -/
def wrapping (s : State) : State := { s with config := { s.config with zpPtrWrap := true } }

/-- The result is a next state that passes the test. -/
def gives (r : Result) (test : State → Bool) : Bool :=
  match r with
  | .next t => test t
  | _ => false

/-- One step removes `cycles` and the state after it passes the test. -/
def steps (s : State) (cycles : Nat) (test : State → Bool) : Bool :=
  gives (step s) (fun t => t.cyc == s.cyc - cycles && test t)

/-! ## WellFormed: byte sequences that are not an instruction -/

theorem test_ill_formed_empty : wellFormedCode [] = false := by decide
theorem test_ill_formed_unmapped :
    wellFormedCode [0xEA#8] = false ∧ wellFormedCode [0x00#8] = false ∧ wellFormedCode [0xFF#8] = false := by
  decide
theorem test_ill_formed_too_short :
    wellFormedCode [0xA9#8] = false ∧ wellFormedCode [0x8D#8, 0x06#8] = false := by decide
theorem test_ill_formed_too_long :
    wellFormedCode [0xAA#8, 0x00#8] = false ∧ wellFormedCode [0xA9#8, 0x01#8, 0x02#8] = false ∧
    wellFormedCode [0xAD#8, 0x01#8, 0x02#8, 0x03#8] = false := by decide
theorem test_well_formed_one_of_each_length :
    wellFormedCode [0xAA#8] = true ∧ wellFormedCode [0xA9#8, 0x01#8] = true ∧
    wellFormedCode [0xAD#8, 0x34#8, 0x12#8] = true := by decide

/-! ## Decoding: a word for every row of R93, the operand byte 0x12 or the operand 0x3412 -/

theorem test_decode_lda :
    [decodeTableWord 16 0x12A9, decodeTableWord 16 0x12A5, decodeTableWord 16 0x12B5,
     decodeTableWord 24 0x3412AD, decodeTableWord 24 0x3412BD, decodeTableWord 24 0x3412B9,
     decodeTableWord 16 0x12A1, decodeTableWord 16 0x12B1] =
    [some (.ldaImm 0x12#8), some (.ldaZp 0x12#8), some (.ldaZpX 0x12#8), some (.ldaAbs 0x3412#16),
     some (.ldaAbsX 0x3412#16), some (.ldaAbsY 0x3412#16), some (.ldaIndX 0x12#8),
     some (.ldaIndY 0x12#8)] := by decide
theorem test_decode_ldx :
    [decodeTableWord 16 0x12A2, decodeTableWord 16 0x12A6, decodeTableWord 16 0x12B6,
     decodeTableWord 24 0x3412AE, decodeTableWord 24 0x3412BE] =
    [some (.ldxImm 0x12#8), some (.ldxZp 0x12#8), some (.ldxZpY 0x12#8), some (.ldxAbs 0x3412#16),
     some (.ldxAbsY 0x3412#16)] := by decide
theorem test_decode_ldy :
    [decodeTableWord 16 0x12A0, decodeTableWord 16 0x12A4, decodeTableWord 16 0x12B4,
     decodeTableWord 24 0x3412AC, decodeTableWord 24 0x3412BC] =
    [some (.ldyImm 0x12#8), some (.ldyZp 0x12#8), some (.ldyZpX 0x12#8), some (.ldyAbs 0x3412#16),
     some (.ldyAbsX 0x3412#16)] := by decide
theorem test_decode_sta :
    [decodeTableWord 16 0x1285, decodeTableWord 16 0x1295, decodeTableWord 24 0x34128D,
     decodeTableWord 24 0x34129D, decodeTableWord 24 0x341299, decodeTableWord 16 0x1281,
     decodeTableWord 16 0x1291] =
    [some (.staZp 0x12#8), some (.staZpX 0x12#8), some (.staAbs 0x3412#16), some (.staAbsX 0x3412#16),
     some (.staAbsY 0x3412#16), some (.staIndX 0x12#8), some (.staIndY 0x12#8)] := by decide
theorem test_decode_stx_sty :
    [decodeTableWord 16 0x1286, decodeTableWord 16 0x1296, decodeTableWord 24 0x34128E,
     decodeTableWord 16 0x1284, decodeTableWord 16 0x1294, decodeTableWord 24 0x34128C] =
    [some (.stxZp 0x12#8), some (.stxZpY 0x12#8), some (.stxAbs 0x3412#16), some (.styZp 0x12#8),
     some (.styZpX 0x12#8), some (.styAbs 0x3412#16)] := by decide
theorem test_decode_implied :
    [decodeTableWord 8 0xAA, decodeTableWord 8 0x8A, decodeTableWord 8 0xA8, decodeTableWord 8 0x98,
     decodeTableWord 8 0xBA, decodeTableWord 8 0x9A, decodeTableWord 8 0x48, decodeTableWord 8 0x08,
     decodeTableWord 8 0x68, decodeTableWord 8 0x28] =
    [some .tax, some .txa, some .tay, some .tya, some .tsx, some .txs, some .pha, some .php,
     some .pla, some .plp] := by decide
theorem test_decode_unknown :
    [decodeTableWord 8 0xFF, decodeTableWord 8 0x00, decodeTableWord 8 0xEA, decodeTableWord 8 0x02] =
    [none, none, none, none] := by decide
theorem test_encode_examples :
    encode (.stxZpY 0x42#8) = [0x96#8, 0x42#8] ∧ encode (.staAbs 0x0406#16) = [0x8D#8, 0x06#8, 0x04#8] ∧
    encode .plp = [0x28#8] := by decide

/-! ## Loads (L1 to L31) -/

theorem test_L1_ldaImm_zero : steps (code [0xA9#8, 0x00#8] []) 2
    (fun t => t.a == 0x00#8 && t.p == 0x02#8 && t.pc == 0x0202#16) = true := by decide
theorem test_L5_ldaImm_setOnly :
    steps { code [0xA9#8, 0x01#8] [] with p := 0x02#8 } 2 (fun t => t.a == 0x01#8 && t.p == 0x02#8) = true ∧
    steps (clearing { code [0xA9#8, 0x01#8] [] with p := 0x02#8 }) 2 (fun t => t.p == 0x00#8) = true := by
  decide
theorem test_L8_ldaZp : steps (code [0xA5#8, 0x10#8] [(0x0010#16, 0x42#8)]) 3
    (fun t => t.a == 0x42#8 && t.p == 0x00#8) = true := by decide
theorem test_L9_ldaZpX :
    steps { code [0xB5#8, 0xF0#8] [(0x0010#16, 0x80#8), (0x0110#16, 0x55#8)] with x := 0x20#8 } 4
      (fun t => t.a == 0x80#8 && t.p == 0x80#8) = true := by decide
theorem test_L10_ldaAbs : steps (code [0xAD#8, 0x00#8, 0x13#8] []) 4
    (fun t => t.a == 0x00#8 && t.p == 0x02#8 && t.pc == 0x0203#16) = true := by decide
theorem test_L31_ldaAbs_straddles_the_top :
    steps (start 0xFFFE#16 [0xAD#8, 0x10#8, 0x00#8] [(0x0010#16, 0x99#8)]) 4
      (fun t => t.a == 0x99#8 && t.p == 0x80#8 && t.pc == 0x0001#16) = true := by decide
theorem test_L11_ldaAbsX_no_crossing :
    steps { code [0xBD#8, 0x00#8, 0x12#8] [(0x12FF#16, 0x11#8)] with x := 0xFF#8 } 4
      (fun t => t.a == 0x11#8) = true := by decide
theorem test_L13_ldaAbsX_wraps :
    steps { code [0xBD#8, 0xFF#8, 0xFF#8] [(0x0001#16, 0x33#8)] with x := 0x02#8 } 5
      (fun t => t.a == 0x33#8) = true := by decide
theorem test_L14_ldaAbsY :
    steps { code [0xB9#8, 0x34#8, 0x12#8] [(0x1244#16, 0x7F#8)] with y := 0x10#8, x := 0x77#8 } 4
      (fun t => t.a == 0x7F#8 && t.p == 0x00#8) = true := by decide
theorem test_L16_ldaIndX :
    steps { code [0xA1#8, 0xF0#8] [(0x20#16, 0xF0#8), (0x21#16, 0x12#8), (0x12F0#16, 0x5A#8)]
      with x := 0x30#8 } 6 (fun t => t.a == 0x5A#8) = true := by decide

/-- The memory of L17. -/
def pointerCells : List (Word × Byte) :=
  [(0x00FF#16, 0x34#8), (0x0100#16, 0x12#8), (0x0000#16, 0x56#8), (0x1234#16, 0xAA#8), (0x5634#16, 0xBB#8)]

theorem test_L17_ldaIndX_pointer_at_the_page_end :
    steps (code [0xA1#8, 0xFF#8] pointerCells) 6 (fun t => t.a == 0xAA#8 && t.p == 0x80#8) = true ∧
    steps (wrapping (code [0xA1#8, 0xFF#8] pointerCells)) 6 (fun t => t.a == 0xBB#8) = true := by decide
theorem test_L18_ldaIndY_no_crossing :
    steps { code [0xB1#8, 0x20#8] [(0x21#16, 0x30#8), (0x3005#16, 0x01#8)] with y := 0x05#8 } 5
      (fun t => t.a == 0x01#8) = true := by decide
theorem test_L19_ldaIndY_crossing :
    steps { code [0xB1#8, 0x20#8] [(0x20#16, 0xF0#8), (0x21#16, 0x12#8), (0x1300#16, 0x5A#8)]
      with y := 0x10#8 } 6 (fun t => t.a == 0x5A#8) = true := by decide
theorem test_L20_ldxImm : steps (code [0xA2#8, 0x7F#8] []) 2
    (fun t => t.x == 0x7F#8 && t.p == 0x00#8) = true := by decide
theorem test_L21_ldxZp : steps (code [0xA6#8, 0x10#8] [(0x0010#16, 0x42#8)]) 3
    (fun t => t.x == 0x42#8) = true := by decide
theorem test_L22_ldxZpY : steps { code [0xB6#8, 0xFF#8] [(0x0008#16, 0x77#8)] with y := 0x02#8, x := 0x09#8 } 4
    (fun t => t.x == 0x00#8 && t.p == 0x02#8) = true := by decide
theorem test_L23_ldxAbs : steps (code [0xAE#8, 0xFF#8, 0x01#8] [(0x01FF#16, 0x99#8)]) 4
    (fun t => t.x == 0x99#8 && t.p == 0x80#8) = true := by decide
theorem test_L24_ldxAbsY : steps { code [0xBE#8, 0xF0#8, 0x20#8] [(0x2100#16, 0x01#8)] with y := 0x10#8 } 5
    (fun t => t.x == 0x01#8) = true := by decide
theorem test_L25_ldyImm : steps (code [0xA0#8, 0x10#8] []) 2 (fun t => t.y == 0x10#8) = true := by decide
theorem test_L26_ldyZp : steps (code [0xA4#8, 0x00#8] [(0x0000#16, 0xFF#8)]) 3
    (fun t => t.y == 0xFF#8 && t.p == 0x80#8) = true := by decide
theorem test_L27_ldyZpX : steps { code [0xB4#8, 0x80#8] [(0x0000#16, 0x33#8)] with x := 0x80#8 } 4
    (fun t => t.y == 0x33#8) = true := by decide
theorem test_L28_ldyAbs : steps (code [0xAC#8, 0x34#8, 0x12#8] []) 4
    (fun t => t.y == 0x00#8 && t.p == 0x02#8) = true := by decide
theorem test_L29_ldyAbsX_crossing :
    steps { code [0xBC#8, 0xFC#8, 0x12#8] [(0x1300#16, 0x5A#8)] with x := 0x04#8 } 5
      (fun t => t.y == 0x5A#8) = true := by decide
theorem test_L30_ldyAbsX_no_crossing :
    steps { code [0xBC#8, 0xFC#8, 0x12#8] [(0x12FF#16, 0x5B#8)] with x := 0x03#8 } 4
      (fun t => t.y == 0x5B#8) = true := by decide

/-! ## Stores (S1 to S17); `P` is 0x00 before and after -/

theorem test_S1_staZp : steps { code [0x85#8, 0x10#8] [] with a := 0x42#8 } 3
    (fun t => memRead t.mem 0x0010#16 == 0x42#8 && t.p == 0x00#8) = true := by decide
theorem test_S2_staZpX : steps { code [0x95#8, 0xFF#8] [] with x := 0x01#8, a := 0x07#8 } 4
    (fun t => memRead t.mem 0x0000#16 == 0x07#8 && memRead t.mem 0x0100#16 == 0x00#8) = true := by decide
theorem test_S3_staAbs : steps { code [0x8D#8, 0x06#8, 0x04#8] [] with a := 0x07#8 } 4
    (fun t => memRead t.mem 0x0406#16 == 0x07#8) = true := by decide
theorem test_S17_staAbs_over_its_own_operand :
    steps { code [0x8D#8, 0x01#8, 0x02#8] [] with a := 0x55#8 } 4
      (fun t => memRead t.mem 0x0201#16 == 0x55#8 && t.pc == 0x0203#16) = true := by decide
theorem test_S4_staAbsX_no_crossing : steps { code [0x9D#8, 0x00#8, 0x12#8] [] with x := 0x04#8, a := 0x5A#8 } 5
    (fun t => memRead t.mem 0x1204#16 == 0x5A#8) = true := by decide
theorem test_S5_staAbsX_crossing : steps { code [0x9D#8, 0xFF#8, 0x12#8] [] with x := 0x04#8, a := 0x5A#8 } 5
    (fun t => memRead t.mem 0x1303#16 == 0x5A#8) = true := by decide
theorem test_S6_staAbsY : steps { start 0x0300#16 [0x99#8, 0x00#8, 0x02#8] [] with y := 0xFF#8, a := 0x11#8 } 5
    (fun t => memRead t.mem 0x02FF#16 == 0x11#8) = true := by decide
theorem test_S7_staAbsY_wraps : steps { code [0x99#8, 0xFF#8, 0xFF#8] [] with y := 0x01#8, a := 0x66#8 } 5
    (fun t => memRead t.mem 0x0000#16 == 0x66#8) = true := by decide
theorem test_S8_staIndX :
    steps { code [0x81#8, 0x1C#8] [(0x20#16, 0xF0#8), (0x21#16, 0x12#8)] with x := 0x04#8, a := 0x5A#8 } 6
      (fun t => memRead t.mem 0x12F0#16 == 0x5A#8) = true := by decide
theorem test_S9_staIndY_no_crossing :
    steps { code [0x91#8, 0x20#8] [(0x21#16, 0x30#8)] with y := 0x05#8, a := 0xAA#8 } 6
      (fun t => memRead t.mem 0x3005#16 == 0xAA#8) = true := by decide
theorem test_S10_staIndY_crossing :
    steps { code [0x91#8, 0x20#8] [(0x20#16, 0xF0#8), (0x21#16, 0x12#8)] with y := 0x10#8, a := 0xAA#8 } 6
      (fun t => memRead t.mem 0x1300#16 == 0xAA#8) = true := by decide
theorem test_S11_stxZp : steps { code [0x86#8, 0x00#8] [] with x := 0xFF#8 } 3
    (fun t => memRead t.mem 0x0000#16 == 0xFF#8 && t.p == 0x00#8) = true := by decide
theorem test_S12_stxZpY : steps { code [0x96#8, 0x42#8] [] with y := 0x05#8, x := 0xFE#8 } 4
    (fun t => memRead t.mem 0x0047#16 == 0xFE#8 && memRead t.mem 0x0040#16 == 0x00#8) = true := by decide
theorem test_S13_stxAbs : steps { code [0x8E#8, 0xFC#8, 0xFF#8] [] with x := 0x01#8 } 4
    (fun t => memRead t.mem 0xFFFC#16 == 0x01#8) = true := by decide
theorem test_S14_styZp : steps (code [0x84#8, 0x7F#8] [(0x007F#16, 0x55#8)]) 3
    (fun t => memRead t.mem 0x007F#16 == 0x00#8 && t.p == 0x00#8) = true := by decide
theorem test_S15_styZpX : steps { code [0x94#8, 0x10#8] [] with x := 0x05#8, y := 0x77#8 } 4
    (fun t => memRead t.mem 0x0015#16 == 0x77#8) = true := by decide
theorem test_S16_styAbs : steps { code [0x8C#8, 0x50#8, 0x01#8] [] with y := 0x33#8 } 4
    (fun t => memRead t.mem 0x0150#16 == 0x33#8 && t.sp == 0xFF#8) = true := by decide

/-! ## Transfers (T1 to T10) -/

theorem test_T1_tax : steps { code [0xAA#8] [] with a := 0x80#8 } 2
    (fun t => t.x == 0x80#8 && t.a == 0x80#8 && t.p == 0x80#8) = true := by decide
theorem test_T3_txa : steps { code [0x8A#8] [] with x := 0x42#8, a := 0x99#8 } 2
    (fun t => t.a == 0x42#8 && t.p == 0x00#8) = true := by decide
theorem test_T4_tay : steps { code [0xA8#8] [] with a := 0x42#8 } 2
    (fun t => t.y == 0x42#8 && t.p == 0x00#8) = true := by decide
theorem test_T5_tya :
    steps { code [0x98#8] [] with y := 0xFF#8, p := 0x02#8 } 2 (fun t => t.a == 0xFF#8 && t.p == 0x82#8) = true ∧
    steps (clearing { code [0x98#8] [] with y := 0xFF#8, p := 0x02#8 }) 2 (fun t => t.p == 0x80#8) = true := by
  decide
theorem test_T6_tsx : steps (code [0xBA#8] []) 2
    (fun t => t.x == 0xFF#8 && t.p == 0x80#8 && t.sp == 0xFF#8) = true := by decide
theorem test_T9_txs_zero : steps (code [0x9A#8] []) 2
    (fun t => t.sp == 0x00#8 && t.p == 0x00#8) = true := by decide
theorem test_T10_txs_negative : steps { code [0x9A#8] [] with x := 0x80#8 } 2
    (fun t => t.sp == 0x80#8 && t.p == 0x00#8) = true := by decide

/-! ## Stack (K1 to K9) -/

theorem test_K1_pha : steps { code [0x48#8] [] with a := 0x42#8 } 3
    (fun t => memRead t.mem 0x01FF#16 == 0x42#8 && t.sp == 0xFE#8 && t.p == 0x00#8) = true := by decide
theorem test_K2_pha_wraps : steps { code [0x48#8] [] with a := 0x42#8, sp := 0x00#8 } 3
    (fun t => memRead t.mem 0x0100#16 == 0x42#8 && t.sp == 0xFF#8) = true := by decide
theorem test_K3_php : steps { code [0x08#8] [] with p := 0x82#8, sp := 0xFE#8 } 3
    (fun t => memRead t.mem 0x01FE#16 == 0x82#8 && t.sp == 0xFD#8 && t.p == 0x82#8) = true := by decide
theorem test_K6_pla_wraps : steps (code [0x68#8] [(0x0100#16, 0x80#8)]) 4
    (fun t => t.a == 0x80#8 && t.sp == 0x00#8 && t.p == 0x80#8) = true := by decide
theorem test_K7_pla_setOnly : steps { code [0x68#8] [] with sp := 0xFE#8, p := 0x80#8 } 4
    (fun t => t.a == 0x00#8 && t.p == 0x82#8) = true := by decide
theorem test_K8_plp_clears : steps { code [0x28#8] [] with sp := 0xFE#8, p := 0x82#8 } 4
    (fun t => t.p == 0x00#8 && t.sp == 0xFF#8) = true := by decide
theorem test_K9_plp_all_bits : steps { code [0x28#8] [(0x01FF#16, 0xFF#8)] with sp := 0xFE#8 } 4
    (fun t => t.p == 0xFF#8) = true := by decide

/-! ## Execute, Reset and faults (E1 to E8) -/

/-- A halted core with code at 0x0200 and one move of the host waiting. -/
def halted (bytes : List Byte) (move : HostMove) : State :=
  { code bytes [] with cyc := 0, run := .halted, inbox := [move] }

theorem test_E1_execute_zero : gives (step (halted [0xA9#8, 0x01#8] (.execute 0)))
    (fun t => t.run == .halted && t.cyc == 0 && t.pc == 0x0200#16) = true := by decide
theorem test_E2_overspend : gives (runSteps 2 (halted [0xA9#8, 0x01#8] (.execute 1)))
    (fun t => t.run == .halted && t.cyc == -1 && t.a == 0x01#8 && t.pc == 0x0202#16) = true := by decide
theorem test_E4_fault_with_the_meter_at_zero : gives (runSteps 3 (halted [0xA9#8, 0x01#8] (.execute 3)))
    (fun t => t.run == .faulted (.unknownOpcode 0x00#8 0x0202#16) && t.cyc == 0 && t.pc == 0x0203#16 &&
      t.a == 0x01#8) = true := by decide
theorem test_E7_empty_machine : gives (runSteps 2 { State.reset with inbox := [.execute 1] })
    (fun t => t.run == .faulted (.unknownOpcode 0x00#8 0xFFFC#16) && t.cyc == 0 && t.pc == 0xFFFD#16) =
      true := by decide

/-- The state after E8: faulted at 0x0300, with a move of the host waiting. -/
def faulted (move : HostMove) : State :=
  { start 0x0301#16 [] [(0x0300#16, 0xFF#8)] with
    cyc := 9, run := .faulted (.unknownOpcode 0xFF#8 0x0300#16), inbox := [move] }

theorem test_E8_unknown_opcode : gives (step { start 0x0300#16 [0xFF#8] [] with cyc := 10 })
    (fun t => { t with inbox := [.reset] } == faulted .reset) = true := by decide
theorem test_E5_execute_while_faulted : gives (step (faulted (.execute 100)))
    (fun t => t == { faulted .reset with inbox := [] }) = true := by decide
theorem test_E6_reset_after_a_fault : gives (step (faulted .reset)) (fun t => t == State.reset) = true := by
  decide
theorem test_fetchWord_runs_as_the_first_instruction :
    gives (step (State.reset.withFetchWord 24 0x040C8D)) (fun t => t.pc == 0xFFFF#16) = true ∧
    gives (step (State.reset.withFetchWord 8 0x48)) (fun t => t.sp == 0xFE#8) = true := by decide

/-! ## Witnesses: for every obligation with hypotheses, a state and operands that meet them -/

theorem test_witness_ResetTransactionSetsEveryElement :
    (halted [] .reset).run ≠ .running ∧ (halted [] .reset).inbox = .reset :: [] ∧
    (faulted .reset).run ≠ .running ∧ (faulted .reset).inbox = .reset :: [] := by decide
theorem test_witness_HostWritesBetweenRuns :
    (faulted .reset).run ≠ .running ∧ (faulted .reset).mem.wf ∧ (0x0000#16 : Word) ≠ 0xFFFF#16 := by decide
theorem test_witness_RunningCoreIgnoresTheHost : (code [0xAA#8] []).run = .running := by decide
theorem test_witness_IdleCoreKeepsItsState :
    State.reset.run ≠ .running ∧ State.reset.inbox = [] ∧ (faulted (.execute 1)).run ≠ .running ∧
    (faulted (.execute 1)).inbox ≠ [] := by decide
theorem test_witness_EncodeOfDecode :
    decode [0x8D#8, 0xFF#8, 0xFF#8, 0x28#8] = .ok (.staAbs 0xFFFF#16, [0x28#8]) := rfl
theorem test_witness_OpcodeMapIsOneToOne : (0xBE#8 : Byte) ∈ mappedOpcodes := by decide
theorem test_witness_DecoderAcceptsExactlyTheMappedOpcodes :
    (0xEA#8 : Byte) ∉ mappedOpcodes ∧
    opcodeLength 0x28#8 = some 1 ∧ 1 ≤ ([] : List Byte).length + 1 ∧
    opcodeLength 0xA9#8 = some 2 ∧ 2 ≤ [0x00#8].length + 1 ∧ ([] : List Byte).length + 1 < 2 ∧
    opcodeLength 0x8D#8 = some 3 ∧ 3 ≤ [0xFF#8, 0xFF#8].length + 1 ∧ [0xFF#8].length + 1 < 3 := by decide
theorem test_witness_StepRunsTheDecodedInstruction :
    (code [0xA9#8, 0xFE#8] []).run = .running ∧ 0 < (code [0xA9#8, 0xFE#8] []).cyc ∧
    nextInstr (code [0xA9#8, 0xFE#8] []) = some (.ldaImm 0xFE#8) := by decide
theorem test_witness_UnknownOpcodeStopsTheCore :
    (code [0xEA#8] []).run = .running ∧ 0 < (code [0xEA#8] []).cyc ∧
    memRead (code [0xEA#8] []).mem (code [0xEA#8] []).pc = 0xEA#8 ∧ (0xEA#8 : Byte) ∉ mappedOpcodes ∧
    ∃ t, step (code [0xEA#8] []) = .next t ∧ t.run = .faulted (.unknownOpcode 0xEA#8 0x0200#16) ∧
      (code [0xEA#8] []).run ≠ .faulted (.unknownOpcode 0xEA#8 0x0200#16) :=
  ⟨rfl, by decide, by decide, by decide, _, rfl, by decide, by decide⟩
theorem test_witness_FaultedStateIsSticky :
    (faulted .reset).run = .faulted (.unknownOpcode 0xFF#8 0x0300#16) ∧
    step (faulted .reset) = .next State.reset ∧
    State.reset.run ≠ .faulted (.unknownOpcode 0xFF#8 0x0300#16) := ⟨rfl, rfl, by decide⟩

/-- Each row of R132, at a state that meets its hypotheses, the two ends of `t.cyc` among them. -/
theorem test_witness_RunStateTransitions :
    ((halted [] (.execute 1)).run = .halted ∧ (halted [] (.execute 1)).inbox = .execute 1 :: []) ∧
    ((halted [] (.execute 0)).run = .halted ∧ (halted [] (.execute 0)).inbox = .execute 0 :: []) ∧
    (State.reset.run = .halted ∧ ∀ b rest, State.reset.inbox ≠ .execute b :: rest) ∧
    (memRead (code [0xAA#8] []).mem 0x0200#16 ∈ mappedOpcodes ∧
      gives (step { code [0xAA#8] [] with cyc := 3 }) (fun t => t.cyc == 1) = true ∧
      gives (step { code [0xAA#8] [] with cyc := 2 }) (fun t => t.cyc == 0) = true) ∧
    memRead (code [0x00#8] []).mem 0x0200#16 ∉ mappedOpcodes ∧
    ({ code [0xAA#8] [] with cyc := 0 }.run = .running ∧ { code [0xAA#8] [] with cyc := 0 }.cyc ≤ 0) ∧
    ((faulted (.execute 5)).run = .faulted (.unknownOpcode 0xFF#8 0x0300#16) ∧
      (faulted (.execute 5)).inbox.head? ≠ some .reset) ∧
    ((faulted .reset).run ≠ .running ∧ (faulted .reset).inbox = .reset :: []) := by
  refine ⟨by decide, by decide, ⟨rfl, fun b rest h => by cases h⟩, by decide, by decide, by decide, by decide,
    by decide⟩

theorem test_witness_StepCostAndLength :
    (code [0xBD#8] []).run = .running ∧ 0 < (code [0xBD#8] []).cyc ∧
    Reference.lookup (memRead (code [0xBD#8] []).mem 0x0200#16) = some ⟨0xBD#8, .load .a, .absoluteX, 4⟩ ∧
    Reference.lookup (memRead (code [0xEA#8] []).mem 0x0200#16) = none := by decide
theorem test_witness_ExecuteLoadsItsBudget :
    (halted [] (.execute 7)).run = .halted ∧ (halted [] (.execute 7)).inbox = .execute 7 :: [] := by decide
theorem test_witness_SteppingIsTheExecuteLoop :
    State.reset.run ≠ .running ∧ State.reset.inbox = [] := by decide
theorem test_witness_ExecuteEndsWithinItsBudget :
    (halted [] (.execute 3)).run ≠ .running ∧ (halted [] (.execute 3)).inbox = [.execute 3] := by decide
theorem test_witness_ExecuteOneSingleSteps :
    (halted [0x28#8] (.execute 1)).run = .halted ∧ (halted [0x28#8] (.execute 1)).inbox = [.execute 1] ∧
    nextInstr (halted [0x28#8] (.execute 1)) = some .plp := by decide
theorem test_witness_StepKeepsTheInvariant :
    State.Inv (code [0xAA#8] []) ∧ ∃ t, step (code [0xAA#8] []) = .next t :=
  ⟨⟨by decide, show (0 : Int) < 8 by decide⟩, _, rfl⟩
theorem test_witness_CanonicalMemoriesAreEqual :
    Memory.wf [(0, 0x01#8), (65535, 0xFF#8)] ∧
    ∀ addr : Word, memRead [(0, 0x01#8), (65535, 0xFF#8)] addr = memRead [(0, 0x01#8), (65535, 0xFF#8)] addr :=
  ⟨by decide, fun _ => rfl⟩
theorem test_witness_EveryInstructionCompletes :
    ∃ t, exec .plp (code [0x28#8] []) = .next t ∧ t.run = .running := ⟨_, rfl, rfl⟩
theorem test_witness_MemoryFrame :
    (code [0x48#8] []).mem.wf ∧ (∃ t, exec .pha (code [0x48#8] []) = .next t) ∧
    storeTarget .pha (code [0x48#8] []) = some (0x01FF#16, 0x00#8) ∧
    (∃ t, exec .pla (code [0x68#8] []) = .next t) ∧ storeTarget .pla (code [0x68#8] []) = none :=
  ⟨by decide, ⟨_, rfl⟩, rfl, ⟨_, rfl⟩, rfl⟩
theorem test_witness_RegisterFrame :
    (∃ t, exec .pha (code [0x48#8] []) = .next t) ∧ writesA .pha = false ∧ writesX .pha = false ∧
    writesY .pha = false ∧ appliesZN .pha = false ∧ Instr.pha ≠ .plp ∧
    (∃ t, exec .tax (code [0xAA#8] []) = .next t) ∧ writesSp .tax = false :=
  ⟨⟨_, rfl⟩, rfl, rfl, rfl, rfl, by decide, ⟨_, rfl⟩, rfl⟩
theorem test_witness_OnlyPlpClearsFlags :
    Instr.tax ≠ .plp ∧ (∃ t, exec .tax (code [0xAA#8] []) = .next t) ∧ Flag.c ≠ .z ∧ Flag.c ≠ .n ∧
    (code [0xAA#8] []).config.znSetOnly = true ∧ isFlagSet 0x80#8 .n = true :=
  ⟨by decide, ⟨_, rfl⟩, by decide, by decide, rfl, by decide⟩
theorem test_witness_FlagsHaveNoEffect :
    Instr.tax ≠ .php ∧ (∃ t, exec .tax (code [0xAA#8] []) = .next t) ∧
    ∃ t, exec .php (code [0x08#8] []) = .next t := ⟨by decide, ⟨_, rfl⟩, _, rfl⟩
theorem test_witness_EffectsDoNotDependOnTheMeter :
    ∃ t, exec .tya (code [0x98#8] []) = .next t := ⟨_, rfl⟩
theorem test_witness_FlagPrimitives :
    (0 < 8 ∧ Flag.c.pos = 0) ∧ (7 < 8 ∧ Flag.n.pos = 7 ∧ Flag.u.pos ≠ 7) := by decide
theorem test_witness_ZeroNegativeHelper :
    defaultConfig.znSetOnly = true ∧ (clearing State.reset).config.znSetOnly = false ∧ Flag.u ≠ .z ∧
    Flag.u ≠ .n := by decide
theorem test_witness_PageCrossing :
    crossed 0xFFFF#16 (0xFFFF#16 + zext16 0x01#8) = true ∧ crossed 0x00FF#16 (0x00FF#16 + zext16 0x01#8) = true ∧
    crossed 0x1200#16 (0x1200#16 + zext16 0xFF#8) = false := by decide
theorem test_witness_WordAndPointerReads :
    State.reset.config.zpPtrWrap = false ∧ (wrapping State.reset).config.zpPtrWrap = true ∧
    pointerHighAddr false 0xFF#8 = 0x0100#16 ∧ pointerHighAddr true 0xFF#8 = 0x0000#16 := by decide
theorem test_witness_ReadSeesTheLastWrite :
    (code [0xAA#8] []).mem.wf ∧ (0xFFFF#16 : Word) ≠ 0x0000#16 := by decide
theorem test_witness_PushThenPullRoundTrips : (halted [] .reset).mem.wf := by decide
theorem test_witness_StoresAreSeenByTheNextFetch :
    (code [0x8D#8, 0x06#8, 0x04#8] []).mem.wf ∧
    (∃ t, exec (.staAbs 0x0406#16) (code [0x8D#8, 0x06#8, 0x04#8] []) = .next t) ∧
    storeTarget (.staAbs 0x0406#16) (code [0x8D#8, 0x06#8, 0x04#8] []) = some (0x0406#16, 0x00#8) :=
  ⟨by decide, ⟨_, rfl⟩, rfl⟩

end Sys2Proof.Tests
end

/-! ## The forward rules of one step

`step_cases` says what a step can have done; these say what it does, one rule per branch. -/

section
namespace Sys2Proof.Machine

/-- The used-up meter ends the call (spec/41_dispatch.md R130). -/
theorem step_spent {s : State} (hr : s.run = .running) (hc : s.cyc ≤ 0) :
    step s = .next (setRun .halted s) := by
  rw [step_running hr, stepRunning, if_neg (by omega)]

/-- An unknown opcode latches the fault and ends the turn (spec/60_exceptions.md R211, R216). -/
theorem step_unknownOpcode {s : State} (hr : s.run = .running) (hc : 0 < s.cyc)
    (hi : nextInstr s = none) :
    step s = .next (raise (.unknownOpcode (memRead s.mem s.pc) s.pc) (fetchByte s).2) := by
  rw [step_running hr, stepRunning, if_pos hc, runInstruction_none hi]
  rfl

/-- A decoded instruction is performed and the loop test follows it (spec/41_dispatch.md R130, R131). -/
theorem step_performs {s u : State} {i : Instr} (hr : s.run = .running) (hc : 0 < s.cyc)
    (hi : nextInstr s = some i) (hu : exec i (fetchByte s).2 = .next u) :
    step s = .next (setRun (if 0 < u.cyc then .running else .halted) u) := by
  have hk : u.run = .running := by simpa [hr] using (exec_keeps hu).run
  rw [step_running hr, stepRunning, if_pos hc, runInstruction_some hi, hu]
  simp [afterInstruction, hk]

/-- Between calls the host's next move happens (spec/00_scope.md R6). -/
theorem step_hostMove {s : State} {m : HostMove} {rest : List HostMove} (hr : s.run ≠ .running)
    (hb : s.inbox = m :: rest) : step s = .next (applyHostMove m { s with inbox := rest }) := by
  rw [step_notRunning hr, stepNotRunning_move hb]

/-- Every instruction answers a next state. -/
theorem exec_answers (i : Instr) (s : State) : ∃ t, exec i s = .next t := by
  cases i <;> exact ⟨_, rfl⟩

/-- A Running core always answers a next state. -/
theorem step_running_answers {s : State} (hr : s.run = .running) : ∃ t, step s = .next t := by
  by_cases hc : 0 < s.cyc
  · cases hi : nextInstr s with
    | none => exact ⟨_, step_unknownOpcode hr hc hi⟩
    | some i =>
      obtain ⟨u, hu⟩ := exec_answers i (fetchByte s).2
      exact ⟨_, step_performs hr hc hi hu⟩
  · exact ⟨_, step_spent hr (by omega)⟩

end Sys2Proof.Machine
end

/-! ## The part of the state that no instruction reads

The meter, the run state and the host's waiting moves: shifting the meter and replacing the other two
commutes with every instruction. -/

section
namespace Sys2Proof.Machine

/-- The same core with its meter shifted by `k`, the run state `r` and the waiting moves `q`. -/
def withUnread (k : Int) (r : RunState) (q : List HostMove) (s : State) : State :=
  { s with cyc := s.cyc + k, run := r, inbox := q }

variable (k : Int) (r : RunState) (q : List HostMove) (s : State)

@[simp] theorem withUnread_pc : (withUnread k r q s).pc = s.pc := rfl
@[simp] theorem withUnread_sp : (withUnread k r q s).sp = s.sp := rfl
@[simp] theorem withUnread_a : (withUnread k r q s).a = s.a := rfl
@[simp] theorem withUnread_x : (withUnread k r q s).x = s.x := rfl
@[simp] theorem withUnread_y : (withUnread k r q s).y = s.y := rfl
@[simp] theorem withUnread_p : (withUnread k r q s).p = s.p := rfl
@[simp] theorem withUnread_mem : (withUnread k r q s).mem = s.mem := rfl
@[simp] theorem withUnread_config : (withUnread k r q s).config = s.config := rfl

/-- Replacing the waiting moves alone. -/
theorem withUnread_inbox_only : withUnread 0 s.run q s = { s with inbox := q } := by
  simp [withUnread]

/-! ### It commutes with the elementary updates -/

@[simp] theorem tick_withUnread (n : Nat) :
    tick n (withUnread k r q s) = withUnread k r q (tick n s) := by
  simp only [tick, withUnread, State.mk.injEq, and_true, true_and]
  omega

@[simp] theorem advancePc_withUnread (n : Word) :
    advancePc n (withUnread k r q s) = withUnread k r q (advancePc n s) := rfl

@[simp] theorem setSp_withUnread (v : Byte) :
    setSp v (withUnread k r q s) = withUnread k r q (setSp v s) := rfl

@[simp] theorem setP_withUnread (v : Byte) :
    setP v (withUnread k r q s) = withUnread k r q (setP v s) := rfl

@[simp] theorem storeCell_withUnread (c : Word) (v : Byte) :
    storeCell c v (withUnread k r q s) = withUnread k r q (storeCell c v s) := rfl

@[simp] theorem applyZN_withUnread (v : Byte) :
    applyZN v (withUnread k r q s) = withUnread k r q (applyZN v s) := rfl

@[simp] theorem writeReg_withUnread (g : Reg) (v : Byte) :
    writeReg g v (withUnread k r q s) = withUnread k r q (writeReg g v s) := by
  cases g <;> rfl

@[simp] theorem readReg_withUnread (g : Reg) : readReg g (withUnread k r q s) = readReg g s := by
  cases g <;> rfl

/-! ### It commutes with the resolvers -/

theorem addrZeroPage_withUnread (d : Byte) :
    addrZeroPage d (withUnread k r q s) = Prod.map id (withUnread k r q) (addrZeroPage d s) := by
  simp [addrZeroPage]

theorem addrZeroPageX_withUnread (d : Byte) :
    addrZeroPageX d (withUnread k r q s) = Prod.map id (withUnread k r q) (addrZeroPageX d s) := by
  simp [addrZeroPageX]

theorem addrZeroPageY_withUnread (d : Byte) :
    addrZeroPageY d (withUnread k r q s) = Prod.map id (withUnread k r q) (addrZeroPageY d s) := by
  simp [addrZeroPageY]

theorem addrAbsolute_withUnread (w : Word) :
    addrAbsolute w (withUnread k r q s) = Prod.map id (withUnread k r q) (addrAbsolute w s) := by
  simp [addrAbsolute]

theorem indexed_withUnread (fixed : Bool) (base : Word) (index : Byte) :
    indexed fixed base index (withUnread k r q s) =
      Prod.map id (withUnread k r q) (indexed fixed base index s) := by
  simp [indexed]

theorem addrAbsoluteX_withUnread (fixed : Bool) (w : Word) :
    addrAbsoluteX fixed w (withUnread k r q s) =
      Prod.map id (withUnread k r q) (addrAbsoluteX fixed w s) := by
  simp [addrAbsoluteX, indexed_withUnread]

theorem addrAbsoluteY_withUnread (fixed : Bool) (w : Word) :
    addrAbsoluteY fixed w (withUnread k r q s) =
      Prod.map id (withUnread k r q) (addrAbsoluteY fixed w s) := by
  simp [addrAbsoluteY, indexed_withUnread]

theorem readPointer_withUnread (p : Byte) :
    readPointer p (withUnread k r q s) = Prod.map id (withUnread k r q) (readPointer p s) := by
  simp [readPointer]

theorem addrIndirectX_withUnread (d : Byte) :
    addrIndirectX d (withUnread k r q s) = Prod.map id (withUnread k r q) (addrIndirectX d s) := by
  simp [addrIndirectX, readPointer_withUnread]

theorem addrIndirectY_withUnread (fixed : Bool) (d : Byte) :
    addrIndirectY fixed d (withUnread k r q s) =
      Prod.map id (withUnread k r q) (addrIndirectY fixed d s) := by
  simp [addrIndirectY, readPointer_withUnread, indexed_withUnread]

/-! ### It commutes with the shared operation of each family -/

variable {k r q s} {t : State}

theorem loadValue_withUnread {g : Reg} {m m' : Byte × State}
    (hm : m' = Prod.map id (withUnread k r q) m) (h : loadValue g m = .next t) :
    loadValue g m' = .next (withUnread k r q t) := by
  simp [loadValue_answers h, hm, loadValue]

theorem load_withUnread {g : Reg} {ea ea' : Word × State}
    (hea : ea' = Prod.map id (withUnread k r q) ea) (h : load g ea = .next t) :
    load g ea' = .next (withUnread k r q t) :=
  loadValue_withUnread (by simp [hea, readByte]) h

theorem store_withUnread {g : Reg} {ea ea' : Word × State}
    (hea : ea' = Prod.map id (withUnread k r q) ea) (h : store g ea = .next t) :
    store g ea' = .next (withUnread k r q t) := by
  simp [store_answers h, hea, store, writeByte]

theorem transferTo_withUnread {g : Reg} {v : Byte} (h : transferTo g v s = .next t) :
    transferTo g v (withUnread k r q s) = .next (withUnread k r q t) := by
  simp [transferTo_answers h, transferTo]

theorem push_withUnread {v : Byte} (h : push v s = .next t) :
    push v (withUnread k r q s) = .next (withUnread k r q t) := by
  obtain rfl : pushToStack v (tick 1 s) = t := by simpa [push] using h
  simp [push, pushToStack]

theorem pull_withUnread : pull (withUnread k r q s) = Prod.map id (withUnread k r q) (pull s) := by
  simp [pull, popFromStack]

/-- No instruction reads the meter, the run state or the waiting moves: with others of them it answers
the same state but for the shift and the two replaced. -/
theorem exec_withUnread {i : Instr} (h : exec i s = .next t) :
    exec i (withUnread k r q s) = .next (withUnread k r q t) := by
  cases i
  case ldaImm | ldxImm | ldyImm => exact loadValue_withUnread (by simp [operandImmediate]) h
  case ldaZp | ldxZp | ldyZp => exact load_withUnread (addrZeroPage_withUnread ..) h
  case ldaZpX | ldyZpX => exact load_withUnread (addrZeroPageX_withUnread ..) h
  case ldxZpY => exact load_withUnread (addrZeroPageY_withUnread ..) h
  case ldaAbs | ldxAbs | ldyAbs => exact load_withUnread (addrAbsolute_withUnread ..) h
  case ldaAbsX | ldyAbsX => exact load_withUnread (addrAbsoluteX_withUnread ..) h
  case ldaAbsY | ldxAbsY => exact load_withUnread (addrAbsoluteY_withUnread ..) h
  case ldaIndX => exact load_withUnread (addrIndirectX_withUnread ..) h
  case ldaIndY => exact load_withUnread (addrIndirectY_withUnread ..) h
  case staZp | stxZp | styZp => exact store_withUnread (addrZeroPage_withUnread ..) h
  case staZpX | styZpX => exact store_withUnread (addrZeroPageX_withUnread ..) h
  case stxZpY => exact store_withUnread (addrZeroPageY_withUnread ..) h
  case staAbs | stxAbs | styAbs => exact store_withUnread (addrAbsolute_withUnread ..) h
  case staAbsX => exact store_withUnread (addrAbsoluteX_withUnread ..) h
  case staAbsY => exact store_withUnread (addrAbsoluteY_withUnread ..) h
  case staIndX => exact store_withUnread (addrIndirectX_withUnread ..) h
  case staIndY => exact store_withUnread (addrIndirectY_withUnread ..) h
  case tax | txa | tay | tya | tsx => exact transferTo_withUnread h
  case txs =>
    obtain rfl : setSp s.x (tick 1 s) = t := by simpa [exec, execTxs] using h
    simp [exec, execTxs]
  case pha | php => exact push_withUnread h
  case pla =>
    obtain rfl : applyZN (pull s).1 (writeReg .a (pull s).1 (pull s).2) = t := by
      simpa [exec, execPla] using h
    simp [exec, execPla, pull_withUnread]
  case plp =>
    obtain rfl : setP (pull s).1 (pull s).2 = t := by simpa [exec, execPlp] using h
    simp [exec, execPlp, pull_withUnread]

/-- Every instruction does the same whatever moves wait. -/
theorem exec_withInbox {i : Instr} (q : List HostMove) (h : exec i s = .next t) :
    exec i { s with inbox := q } = .next { t with inbox := q } := by
  rw [← withUnread_inbox_only, ← withUnread_inbox_only, (exec_keeps h).run]
  exact exec_withUnread h

end Sys2Proof.Machine
end

/-! ## The host and the core -/

section
namespace Sys2Proof.Machine

/-- A step of a Running core does the same whatever moves wait (spec/41_dispatch.md R136). -/
theorem step_running_withInbox {s t : State} (q : List HostMove) (hr : s.run = .running)
    (h : step s = .next t) : step { s with inbox := q } = .next { t with inbox := q } := by
  obtain ⟨-, hc, rfl⟩ | ⟨-, hc, hi, rfl⟩ | ⟨-, hc, i, u, hi, hu, rfl⟩ | ⟨hn, -⟩ | ⟨hn, -⟩ :=
    step_cases h
  · exact step_spent hr hc
  · exact step_unknownOpcode hr hc hi
  · exact step_performs (s := { s with inbox := q }) hr hc hi (exec_withInbox q hu)
  · exact absurd hr hn
  · exact absurd hr hn

/-- A step of a Running core takes no move: with its own list in place of itself it answers that list. -/
theorem step_running_inbox {s t : State} (hr : s.run = .running) (h : step s = .next t) :
    t.inbox = s.inbox := by
  have own : step s = .next { t with inbox := s.inbox } := step_running_withInbox s.inbox hr h
  rw [Host.Outcome.next.inj (h.symm.trans own)]

end Sys2Proof.Machine

namespace Sys2Proof.Proofs
open Sys2Proof.Machine

/-- Settles O4: each branch of a Running core's step keeps the waiting moves and commutes with replacing
them, since no instruction reads or writes them. -/
theorem runningCoreIgnoresTheHost : Obligations.RunningCoreIgnoresTheHost := by
  intro s hr
  obtain ⟨t, ht⟩ := step_running_answers hr
  exact ⟨t, ht, step_running_inbox hr ht, fun q => step_running_withInbox q hr ht⟩

/-- Settles O3: between calls the move at the front happens, and a write is one update of the state; for
a cell it is read after write over the canonical memory. -/
theorem hostWritesBetweenRuns : Obligations.HostWritesBetweenRuns := by
  intro s rest addr v16 v hr hm
  have move (m : HostMove) :
      step { s with inbox := m :: rest } = .next (applyHostMove m { s with inbox := rest }) :=
    step_hostMove hr rfl
  refine ⟨⟨_, move _, ?_, ?_, rfl⟩, move _, move _, move _, move _, move _, move _⟩
  · exact memRead_memWrite_same addr v hm
  · exact fun b hb => memRead_memWrite_other s.mem v hb

end Sys2Proof.Proofs
end

/-! ## The canonical memory holds its cells and nothing else

Two memories in canonical form that read alike list the same entries (spec/10_state.md R30,
notes/assumptions/7.md). -/

section
namespace Sys2Proof.Machine

/-- An entry at the front of a canonical memory reads as its own byte, which no unlisted address does. -/
theorem cellRead_head_ne_unlisted {c : Host.Cell} {m : Memory} (hm : Memory.wf (c :: m)) :
    cellRead (c :: m) c.1 ≠ unlistedByte := by
  obtain ⟨-, ⟨-, hv⟩, -⟩ := wf_cons.mp hm
  simpa [cellRead] using hv

/-- Memories that read alike have no first entry below all entries of the other: it would read as
unlisted there. -/
theorem not_below_of_readsAlike {c : Host.Cell} {m n : Memory} (hm : Memory.wf (c :: m))
    (h : ∀ k < 65536, cellRead (c :: m) k = cellRead n k) : ¬ ∀ d ∈ n, c.1 < d.1 := by
  intro below
  obtain ⟨-, ⟨hk, -⟩, -⟩ := wf_cons.mp hm
  exact cellRead_head_ne_unlisted hm ((h c.1 hk).trans (cellRead_of_below below))

/-- Of two canonical memories that read alike, neither has its first entry before the other's. -/
theorem head_le_of_readsAlike {c d : Host.Cell} {m n : Memory} (hm : Memory.wf (c :: m))
    (hn : Memory.wf (d :: n)) (h : ∀ k < 65536, cellRead (c :: m) k = cellRead (d :: n) k) :
    d.1 ≤ c.1 := by
  by_contra hlt
  obtain ⟨hrise, -, -⟩ := wf_cons.mp hn
  refine not_below_of_readsAlike hm h fun e he => ?_
  rcases List.mem_cons.mp he with rfl | he
  · omega
  · exact (Nat.lt_of_not_le hlt).trans (hrise e he)

/-- With the same first entry, what lies behind it reads alike too. -/
theorem tail_readsAlike {c : Host.Cell} {m n : Memory} (hm : Memory.wf (c :: m))
    (hn : Memory.wf (c :: n)) {k : Nat} (h : cellRead (c :: m) k = cellRead (c :: n) k) :
    cellRead m k = cellRead n k := by
  by_cases hk : k = c.1
  · obtain ⟨hmr, -, -⟩ := wf_cons.mp hm
    obtain ⟨hnr, -, -⟩ := wf_cons.mp hn
    rw [hk, cellRead_of_below hmr, cellRead_of_below hnr]
  · simpa [cellRead, hk] using h

/-- The canonical form holds nothing beyond what its cells read as. -/
theorem memory_ext {m n : Memory} (hm : m.wf) (hn : n.wf)
    (h : ∀ k < 65536, cellRead m k = cellRead n k) : m = n := by
  induction m generalizing n with
  | nil =>
    cases n with
    | nil => rfl
    | cons d n => exact absurd (by simp) (not_below_of_readsAlike hn fun k hk => (h k hk).symm)
  | cons c m ih =>
    cases n with
    | nil => exact absurd (by simp) (not_below_of_readsAlike hm h)
    | cons d n =>
      have addr : c.1 = d.1 := Nat.le_antisymm
        (head_le_of_readsAlike hn hm fun k hk => (h k hk).symm) (head_le_of_readsAlike hm hn h)
      obtain ⟨-, ⟨hc, -⟩, hmt⟩ := wf_cons.mp hm
      obtain ⟨-, -, hnt⟩ := wf_cons.mp hn
      have byte : c.2 = d.2 := by simpa [cellRead, ← addr] using h c.1 hc
      obtain rfl : c = d := Prod.ext addr byte
      rw [ih hmt hnt fun k hk => tail_readsAlike hm hn (h k hk)]

/-- A memory's reads at every `Word` are its cells below 65536. -/
theorem cellRead_eq_of_memRead_eq {m n : Memory} (h : ∀ a : Word, memRead m a = memRead n a) {k : Nat}
    (hk : k < 65536) : cellRead m k = cellRead n k := by
  have hword : (BitVec.ofNat 16 k).toNat = k := Nat.mod_eq_of_lt hk
  simpa only [memRead, hword] using h (BitVec.ofNat 16 k)

end Sys2Proof.Machine
end

/-! ## The bits of the status byte (spec/10_state.md R24 to R27) -/

section
namespace Sys2Proof.Machine

theorem setFlag_getLsbD (p : Byte) (f : Flag) (k : Nat) :
    (setFlag p f).getLsbD k = if k = f.pos then true else p.getLsbD k := by
  rw [setFlag, BitVec.getLsbD_or, flagMask_getLsbD]
  split <;> simp [*]

theorem clearFlag_getLsbD (p : Byte) (f : Flag) {k : Nat} (hk : k < 8) :
    (clearFlag p f).getLsbD k = if k = f.pos then false else p.getLsbD k := by
  rw [clearFlag, BitVec.getLsbD_and, BitVec.getLsbD_not, flagMask_getLsbD]
  split <;> simp [*]

theorem toggleFlag_getLsbD (p : Byte) (f : Flag) (k : Nat) :
    (toggleFlag p f).getLsbD k = if k = f.pos then !p.getLsbD k else p.getLsbD k := by
  rw [toggleFlag, BitVec.getLsbD_xor, flagMask_getLsbD]
  split <;> simp [*]

/-- The flag that a condition decides: set with it, and left alone without it under set-only flags. -/
theorem isFlagSet_flagFrom_same (setOnly : Bool) (p : Byte) (f : Flag) (cond : Bool) :
    isFlagSet (flagFrom setOnly p f cond) f = (cond || (setOnly && isFlagSet p f)) := by
  cases cond with
  | true => simp [isFlagSet, setFlag_getLsbD]
  | false =>
    cases setOnly with
    | true => simp
    | false => simp [isFlagSet, clearFlag_getLsbD _ _ f.pos_lt]

theorem isFlagSet_setZN_z (cfg : Config) (p v : Byte) :
    isFlagSet (setZN cfg p v) .z = (v == 0#8 || (cfg.znSetOnly && isFlagSet p .z)) := by
  rw [setZN, isFlagSet_flagFrom_other _ _ _ _ _ (by decide), isFlagSet_flagFrom_same]

theorem isFlagSet_setZN_n (cfg : Config) (p v : Byte) :
    isFlagSet (setZN cfg p v) .n = (v.getLsbD 7 || (cfg.znSetOnly && isFlagSet p .n)) := by
  rw [setZN, isFlagSet_flagFrom_same, isFlagSet_flagFrom_other _ _ _ _ _ (by decide)]

theorem isFlagSet_setZN_other (cfg : Config) (p v : Byte) {f : Flag} (hz : f ≠ .z) (hn : f ≠ .n) :
    isFlagSet (setZN cfg p v) f = isFlagSet p f := by
  rw [setZN, isFlagSet_flagFrom_other _ _ _ _ _ hn, isFlagSet_flagFrom_other _ _ _ _ _ hz]

/-- Under set-only flags `SetZN` clears no flag. -/
theorem isFlagSet_setZN_of_set {cfg : Config} (hcfg : cfg.znSetOnly = true) {p : Byte} (v : Byte)
    {f : Flag} (hf : isFlagSet p f = true) : isFlagSet (setZN cfg p v) f = true := by
  by_cases hz : f = .z
  · subst hz
    simp [isFlagSet_setZN_z, hcfg, hf]
  · by_cases hn : f = .n
    · subst hn
      simp [isFlagSet_setZN_n, hcfg, hf]
    · rw [isFlagSet_setZN_other cfg p v hz hn, hf]

end Sys2Proof.Machine
end

/-! ## What an instruction can do to the state

Every instruction makes an update of one of seven shapes, and which one, with its values, does not depend
on `P`.  The frame of the registers, the flags' and the meter's rules all follow from that one fact. -/

section
namespace Sys2Proof.Machine
open Sys2Proof.Spec

/-- The instructions that write a general register (spec/10_state.md R23). -/
def writesReg : Reg → Instr → Bool
  | .a => writesA
  | .x => writesX
  | .y => writesY

theorem advancePc_zero (s : State) : advancePc 0 s = s := by
  simp [advancePc]

/-! A general register is not touched by the updates of the other fields. -/

section
variable (r : Reg) (s : State)

@[simp] theorem readReg_tick (k : Nat) : readReg r (tick k s) = readReg r s := by cases r <;> rfl
@[simp] theorem readReg_advancePc (n : Word) : readReg r (advancePc n s) = readReg r s := by
  cases r <;> rfl
@[simp] theorem readReg_setSp (v : Byte) : readReg r (setSp v s) = readReg r s := by cases r <;> rfl
@[simp] theorem readReg_setP (v : Byte) : readReg r (setP v s) = readReg r s := by cases r <;> rfl
@[simp] theorem readReg_applyZN (v : Byte) : readReg r (applyZN v s) = readReg r s := by
  cases r <;> rfl
@[simp] theorem readReg_storeCell (c : Word) (v : Byte) :
    readReg r (storeCell c v s) = readReg r s := by
  cases r <;> rfl

end

/-- The shapes of the update that an instruction makes after its opcode fetch, with what each says of
the instruction and of the cycles charged. -/
inductive EffectOf : Instr → (State → State) → Prop
  /-- A load or a transfer: a general register and `SetZN`. -/
  | toReg {i : Instr} (r : Reg) (v : Byte) (n : Word) (k : Nat) (hr : writesReg r i = true)
      (hk : k ≤ 5) : EffectOf i fun s => applyZN v (writeReg r v (tick k (advancePc n s)))
  /-- A store: one memory cell. -/
  | toCell {i : Instr} (c : Word) (v : Byte) (n : Word) (k : Nat) (hk : k ≤ 5) :
      EffectOf i fun s => storeCell c v (tick k (advancePc n s))
  | txs : EffectOf .txs fun s => setSp s.x (tick 1 s)
  | pha : EffectOf .pha fun s => pushToStack s.a (tick 1 s)
  | php : EffectOf .php fun s => pushToStack s.p (tick 1 s)
  | pla : EffectOf .pla fun s => applyZN (pull s).1 (writeReg .a (pull s).1 (pull s).2)
  | plp : EffectOf .plp fun s => setP (pull s).1 (pull s).2

/-! ### A resolver's answer does not depend on `P` -/

/-- An index penalty is at most one cycle. -/
theorem penaltyCycles_le (fixed : Bool) (base ea : Word) : penaltyCycles fixed base ea ≤ 1 := by
  unfold penaltyCycles
  split <;> decide

section
variable (s : State)

/-- From `s`, whatever its `P`, the resolver answers one address, moves `PC` by one distance and charges
one number of cycles, at most four. -/
def UniformAddress (resolver : State → Word × State) : Prop :=
  ∃ (ea n : Word) (k : Nat), k ≤ 4 ∧ ∀ q, resolver (setP q s) = (ea, tick k (advancePc n (setP q s)))

theorem addrZeroPage_uniform (d : Byte) : UniformAddress s (addrZeroPage d) :=
  ⟨zext16 d, 1, 1, by decide, fun _ => rfl⟩

theorem addrZeroPageX_uniform (d : Byte) : UniformAddress s (addrZeroPageX d) :=
  ⟨zext16 (d + s.x), 1, 2, by decide, fun q => by simp [addrZeroPageX, tick_tick]⟩

theorem addrZeroPageY_uniform (d : Byte) : UniformAddress s (addrZeroPageY d) :=
  ⟨zext16 (d + s.y), 1, 2, by decide, fun q => by simp [addrZeroPageY, tick_tick]⟩

theorem addrAbsolute_uniform (w : Word) : UniformAddress s (addrAbsolute w) :=
  ⟨w, 2, 2, by decide, fun _ => rfl⟩

theorem addrAbsoluteX_uniform (fixed : Bool) (w : Word) : UniformAddress s (addrAbsoluteX fixed w) :=
  have penalty := penaltyCycles_le fixed w (w + zext16 s.x)
  ⟨w + zext16 s.x, 2, 2 + penaltyCycles fixed w (w + zext16 s.x), by omega, fun q => by
    simp [addrAbsoluteX, indexed, tick_tick]⟩

theorem addrAbsoluteY_uniform (fixed : Bool) (w : Word) : UniformAddress s (addrAbsoluteY fixed w) :=
  have penalty := penaltyCycles_le fixed w (w + zext16 s.y)
  ⟨w + zext16 s.y, 2, 2 + penaltyCycles fixed w (w + zext16 s.y), by omega, fun q => by
    simp [addrAbsoluteY, indexed, tick_tick]⟩

theorem addrIndirectX_uniform (d : Byte) : UniformAddress s (addrIndirectX d) :=
  ⟨(readPointer (d + s.x) s).1, 1, 4, by decide, fun q => by
    apply Prod.ext <;> simp [addrIndirectX, tick_tick]⟩

theorem addrIndirectY_uniform (fixed : Bool) (d : Byte) : UniformAddress s (addrIndirectY fixed d) :=
  have penalty := penaltyCycles_le fixed (readPointer d s).1 ((readPointer d s).1 + zext16 s.y)
  ⟨(readPointer d s).1 + zext16 s.y, 1,
    3 + penaltyCycles fixed (readPointer d s).1 ((readPointer d s).1 + zext16 s.y), by omega, fun q => by
      apply Prod.ext <;> simp [addrIndirectY, indexed, tick_tick]⟩

end

/-! ### The updates of the 41 instructions -/

section
variable {i : Instr} {s : State} {r : Reg} {resolver : State → Word × State}

/-- From `s`, whatever its `P`, the instruction makes one and the same of its updates. -/
def Uniform (i : Instr) (s : State) : Prop :=
  ∃ e, EffectOf i e ∧ ∀ q, exec i (setP q s) = .next (e (setP q s))

theorem uniform_load (hexec : ∀ u, exec i u = load r (resolver u)) (hr : writesReg r i = true)
    (haddr : UniformAddress s resolver) : Uniform i s := by
  obtain ⟨ea, n, k, hk, h⟩ := haddr
  exact ⟨_, .toReg r (memRead s.mem ea) n (k + 1) hr (by omega), fun q => by
    simp [hexec, load, loadValue, h q, tick_tick]⟩

theorem uniform_loadImmediate {d : Byte} (hexec : ∀ u, exec i u = loadValue r (operandImmediate d u))
    (hr : writesReg r i = true) : Uniform i s :=
  ⟨_, .toReg r d 1 1 hr (by decide), fun _ => hexec _⟩

theorem uniform_store (hexec : ∀ u, exec i u = store r (resolver u))
    (haddr : UniformAddress s resolver) : Uniform i s := by
  obtain ⟨ea, n, k, hk, h⟩ := haddr
  refine ⟨_, .toCell ea (readReg r s) n (k + 1) (by omega), fun q => ?_⟩
  rw [hexec, store, h q, writeByte, ← tick_tick]
  cases r <;> rfl

theorem uniform_transferTo {v : Byte} (hexec : ∀ q, exec i (setP q s) = transferTo r v (setP q s))
    (hr : writesReg r i = true) : Uniform i s :=
  ⟨_, .toReg r v 0 1 hr (by decide), fun q => by rw [hexec, transferTo, advancePc_zero]⟩

/-- Every instruction's answer is one of its updates, the same one whatever `P` holds. -/
theorem exec_uniform (i : Instr) (s : State) : Uniform i s := by
  cases i
  case ldaImm | ldxImm | ldyImm => exact uniform_loadImmediate (fun _ => rfl) rfl
  case ldaZp | ldxZp | ldyZp => exact uniform_load (fun _ => rfl) rfl (addrZeroPage_uniform s _)
  case ldaZpX | ldyZpX => exact uniform_load (fun _ => rfl) rfl (addrZeroPageX_uniform s _)
  case ldxZpY => exact uniform_load (fun _ => rfl) rfl (addrZeroPageY_uniform s _)
  case ldaAbs | ldxAbs | ldyAbs => exact uniform_load (fun _ => rfl) rfl (addrAbsolute_uniform s _)
  case ldaAbsX | ldyAbsX => exact uniform_load (fun _ => rfl) rfl (addrAbsoluteX_uniform s _ _)
  case ldaAbsY | ldxAbsY => exact uniform_load (fun _ => rfl) rfl (addrAbsoluteY_uniform s _ _)
  case ldaIndX => exact uniform_load (fun _ => rfl) rfl (addrIndirectX_uniform s _)
  case ldaIndY => exact uniform_load (fun _ => rfl) rfl (addrIndirectY_uniform s _ _)
  case staZp | stxZp | styZp => exact uniform_store (fun _ => rfl) (addrZeroPage_uniform s _)
  case staZpX | styZpX => exact uniform_store (fun _ => rfl) (addrZeroPageX_uniform s _)
  case stxZpY => exact uniform_store (fun _ => rfl) (addrZeroPageY_uniform s _)
  case staAbs | stxAbs | styAbs => exact uniform_store (fun _ => rfl) (addrAbsolute_uniform s _)
  case staAbsX => exact uniform_store (fun _ => rfl) (addrAbsoluteX_uniform s _ _)
  case staAbsY => exact uniform_store (fun _ => rfl) (addrAbsoluteY_uniform s _ _)
  case staIndX => exact uniform_store (fun _ => rfl) (addrIndirectX_uniform s _)
  case staIndY => exact uniform_store (fun _ => rfl) (addrIndirectY_uniform s _ _)
  case tax | tay => exact uniform_transferTo (v := s.a) (fun _ => rfl) rfl
  case txa => exact uniform_transferTo (v := s.x) (fun _ => rfl) rfl
  case tya => exact uniform_transferTo (v := s.y) (fun _ => rfl) rfl
  case tsx => exact uniform_transferTo (v := s.sp) (fun _ => rfl) rfl
  case txs => exact ⟨_, .txs, fun _ => rfl⟩
  case pha => exact ⟨_, .pha, fun _ => rfl⟩
  case php => exact ⟨_, .php, fun _ => rfl⟩
  case pla => exact ⟨_, .pla, fun _ => rfl⟩
  case plp => exact ⟨_, .plp, fun _ => rfl⟩

/-- An answer of an instruction is one of its updates of the state. -/
theorem exec_effect {t : State} (h : exec i s = .next t) : ∃ e, EffectOf i e ∧ t = e s := by
  obtain ⟨e, he, hq⟩ := exec_uniform i s
  exact ⟨e, he, Host.Outcome.next.inj (h.symm.trans (hq s.p))⟩

end

/-! ### What the updates change -/

section
variable {i : Instr} {e : State → State} (he : EffectOf i e) (s : State)
include he

/-- After the opcode fetch no instruction takes more than five cycles (spec/70_reset_and_hazards.md R249). -/
theorem EffectOf.cyc_le : s.cyc - 5 ≤ (e s).cyc := by
  cases he <;>
    simp only [pushToStack, pull_snd, applyZN_cyc, writeReg_cyc, setP_cyc, setSp_cyc, storeCell_cyc,
      tick_cyc, advancePc_cyc] <;>
    omega

/-- A general register is written only by its writers. -/
theorem EffectOf.readReg_eq {q : Reg} (hq : writesReg q i = false) :
    readReg q (e s) = readReg q s := by
  cases he with
  | toReg r v n k hr hk =>
    have hne : q ≠ r := fun e => by simp [← e, hq] at hr
    simp [readReg_writeReg_other, hne]
  | toCell | txs | pha | php | plp => simp [pushToStack, pull_snd]
  | pla =>
    have hne : q ≠ .a := by
      rintro rfl
      exact absurd hq (by decide)
    simp [readReg_writeReg_other, hne, pull_snd]

/-- `SP` is written only by TXS and the stack instructions. -/
theorem EffectOf.sp_eq (hi : writesSp i = false) : (e s).sp = s.sp := by
  cases he with
  | toReg => simp
  | toCell => rfl
  | txs | pha | php | pla | plp => simp [writesSp] at hi

/-- Any instruction but PLP leaves `P` as it is, or applies `SetZN` to it and is listed for that. -/
theorem EffectOf.p_cases (hi : i ≠ .plp) :
    (e s).p = s.p ∨ appliesZN i = true ∧ ∃ v, (e s).p = setZN s.config s.p v := by
  cases he with
  | toReg r v n k hr hk =>
    refine .inr ⟨?_, v, by simp⟩
    cases r <;> simp_all [writesReg, appliesZN]
  | toCell | txs | pha | php => simp [pushToStack]
  | pla => exact .inr ⟨rfl, (pull s).1, by simp [pull_snd]⟩
  | plp => exact absurd rfl hi

/-- Any update but PHP's, made with another `P`, answers the same state with another `P`. -/
theorem EffectOf.setP_comm (hi : i ≠ .php) (q : Byte) : ∃ r, e (setP q s) = setP r (e s) := by
  cases he with
  | toReg r v => exact ⟨setZN s.config q v, by cases r <;> rfl⟩
  | toCell | txs | pha => exact ⟨q, rfl⟩
  | php => exact absurd rfl hi
  | pla => exact ⟨setZN s.config q (pull s).1, rfl⟩
  | plp => exact ⟨(pull s).1, rfl⟩

end

end Sys2Proof.Machine
end

/-! ## The machine's invariant, step by step -/

section
namespace Sys2Proof.Machine

/-- The decoder's table has a row for every mapped opcode. -/
theorem lookup_mapped : ∀ op ∈ mappedOpcodes, (decoderTable.lookup op).isSome = true :=
  List.all_eq_true.mp rfl

/-- Three bytes are enough for every row of the table. -/
theorem decode_threeBytes {op : Byte} (h : op ∈ mappedOpcodes) (b c : Byte) :
    ∃ r, decode [op, b, c] = .ok r := by
  obtain ⟨form, hform⟩ := Option.isSome_iff_exists.mp (lookup_mapped op h)
  cases form with
  | implied i => exact ⟨(i, [b, c]), by simp [decode, hform]⟩
  | oneByte make => exact ⟨(make b, [c]), by simp [decode, hform]⟩
  | twoBytes make => exact ⟨(make (wordOf c b), []), by simp [decode, hform]⟩

/-- Where no instruction decodes, the byte at `PC` is no mapped opcode (spec/30_encoding.md R95, R100). -/
theorem unmapped_of_nextInstr_none {s : State} (h : nextInstr s = none) :
    memRead s.mem s.pc ∉ mappedOpcodes := by
  intro hop
  obtain ⟨⟨i, rest⟩, hd⟩ :=
    decode_threeBytes hop (memRead s.mem (s.pc + 1)) (memRead s.mem (s.pc + 2))
  rw [nextInstr, instructionBytes, hd] at h
  exact Option.some_ne_none _ h

/-- The loop test gives the run state that the meter fits, after an overspend of at most five cycles. -/
theorem meterFits_loopTest {cyc : Int} (h : -5 ≤ cyc) :
    meterFits (if 0 < cyc then .running else .halted) cyc := by
  split
  · assumption
  · exact ⟨h, by omega⟩

/-- A budget is loaded into a run state that it fits. -/
theorem meterFits_beginExecute (b : Nat) {s : State} (h : meterFits s.run s.cyc) :
    meterFits (beginExecute b s).run (beginExecute b s).cyc := by
  by_cases hf : ∃ c, s.run = .faulted c
  · obtain ⟨c, hc⟩ := hf
    rwa [beginExecute_faulted b hc]
  · rw [beginExecute_unfaulted b (by simpa using hf)]
    simpa using meterFits_loopTest (cyc := (b : Int)) (by omega)

/-- Every move of the host keeps the invariant. -/
theorem State.Inv.applyHostMove {s : State} (m : HostMove) (h : State.Inv s) :
    State.Inv (applyHostMove m s) := by
  refine ⟨wf_applyHostMove m h.memory, ?_⟩
  by_cases hreset : m = .reset
  · subst hreset
    exact meterFits_loopTest (cyc := 0) (by decide)
  by_cases hexec : ∃ b, m = .execute b
  · obtain ⟨b, rfl⟩ := hexec
    exact meterFits_beginExecute b h.meter
  · obtain ⟨hrun, hcyc⟩ := applyHostMove_run_cyc m s hreset (by simpa using hexec)
    rw [hrun, hcyc]
    exact h.meter

/-- An unknown opcode latches a genuine cause with the meter at least 0. -/
theorem State.Inv.raiseUnknownOpcode {s : State} (h : State.Inv s) (hc : 0 < s.cyc)
    (hi : nextInstr s = none) :
    State.Inv (raise (.unknownOpcode (memRead s.mem s.pc) s.pc) (fetchByte s).2) where
  memory := h.memory
  meter := ⟨show 0 ≤ s.cyc - 1 by omega, unmapped_of_nextInstr_none hi⟩

/-- An instruction that starts with a cycle left and the loop test after it keep the invariant. -/
theorem State.Inv.performInstruction {s u : State} {i : Instr} (h : State.Inv s) (hc : 0 < s.cyc)
    (hu : exec i (fetchByte s).2 = .next u) :
    State.Inv (setRun (if 0 < u.cyc then .running else .halted) u) where
  memory := (exec_keeps hu).memory h.memory
  meter := by
    obtain ⟨e, he, rfl⟩ := exec_effect hu
    have hcost : s.cyc - 1 - 5 ≤ (e (fetchByte s).2).cyc := he.cyc_le _
    exact meterFits_loopTest (by omega)

end Sys2Proof.Machine

namespace Sys2Proof.Proofs
open Sys2Proof.Machine Sys2Proof.Spec

/-- Settles O1: the values are those of R34, and an empty memory lists no cell. -/
theorem resetValues : Obligations.ResetValues :=
  ⟨rfl, rfl, rfl, rfl, rfl, rfl, memRead_initialize, rfl, rfl⟩

/-- Settles O22: nothing is listed, and a Halted core's meter may be 0. -/
theorem resetMeetsTheInvariant : Obligations.ResetMeetsTheInvariant where
  memory := wf_initialize
  meter := ⟨by decide, by decide⟩

/-- Settles O23: each way a step can go keeps the invariant. -/
theorem stepKeepsTheInvariant : Obligations.StepKeepsTheInvariant := by
  intro s t h hstep
  obtain ⟨hr, hc, -⟩ | ⟨-, hc, hi, rfl⟩ | ⟨-, hc, i, u, -, hu, rfl⟩ | ⟨-, -, rfl⟩ |
    ⟨-, m, rest, -, rfl⟩ := step_cases hstep
  · have hpos : 0 < s.cyc := by simpa [hr, meterFits] using h.meter
    omega
  · exact h.raiseUnknownOpcode hc hi
  · exact h.performInstruction hc hu
  · exact h
  · exact State.Inv.applyHostMove (s := { s with inbox := rest }) m ⟨h.memory, h.meter⟩

/-- Settles O24: by induction on both lists, whose first entries must agree. -/
theorem canonicalMemoriesAreEqual : Obligations.CanonicalMemoriesAreEqual :=
  fun _ _ hm hn h => memory_ext hm hn fun _ hk => cellRead_eq_of_memRead_eq h hk

/-- Settles O37: each register in turn, over the updates an instruction can make. -/
theorem registerFrame : Obligations.RegisterFrame := by
  intro i s t h
  obtain ⟨e, he, rfl⟩ := exec_effect h
  refine ⟨he.readReg_eq s (q := .a), he.readReg_eq s (q := .x), he.readReg_eq s (q := .y), he.sp_eq s,
    fun hzn hi => ?_⟩
  rcases he.p_cases s hi with hp | ⟨hzn', -⟩
  · exact hp
  · simp [hzn] at hzn'

/-- Settles O38: `P` stays or is `SetZN` of itself, which concerns Zero and Negative alone. -/
theorem onlyPlpClearsFlags : Obligations.OnlyPlpClearsFlags := by
  intro i s t hi h
  obtain ⟨e, he, rfl⟩ := exec_effect h
  rcases he.p_cases s hi with hp | ⟨-, v, hp⟩ <;> rw [hp]
  · exact ⟨fun _ _ _ => rfl, fun _ _ hf => hf⟩
  · exact ⟨fun _ hz hn => isFlagSet_setZN_other _ _ _ hz hn,
      fun hcfg _ hf => isFlagSet_setZN_of_set hcfg v hf⟩

/-- Settles O39: an instruction makes the same update whatever `P` holds, and but for PHP's the update
commutes with setting `P`. -/
theorem flagsHaveNoEffect : Obligations.FlagsHaveNoEffect := by
  intro i s t q h
  constructor
  · intro hi
    obtain ⟨e, he, hq⟩ := exec_uniform i s
    obtain rfl : e s = t := Host.Outcome.next.inj ((hq s.p).symm.trans h)
    obtain ⟨r, hr⟩ := he.setP_comm s hi q
    exact ⟨r, (hq q).trans (congrArg _ hr)⟩
  · rintro rfl
    obtain rfl : pushToStack s.p (tick 1 s) = t := Host.Outcome.next.inj h
    rfl

/-- Settles O41: the mask of a flag has that flag's bit alone. -/
theorem flagPrimitives : Obligations.FlagPrimitives :=
  fun p f k hk => ⟨rfl, setFlag_getLsbD p f k, clearFlag_getLsbD p f hk, toggleFlag_getLsbD p f k⟩

/-- Settles O42: `SetZN` decides Zero, then Negative, and a flag's update touches no other flag. -/
theorem zeroNegativeHelper : Obligations.ZeroNegativeHelper := by
  intro cfg p v
  refine ⟨fun hcfg => ?_, fun hcfg => ?_, fun f hz hn => isFlagSet_setZN_other cfg p v hz hn⟩
  · simp [isFlagSet_setZN_z, isFlagSet_setZN_n, hcfg, Bool.or_comm]
  · simp [isFlagSet_setZN_z, isFlagSet_setZN_n, hcfg]

end Sys2Proof.Proofs
end

/-! ## The memory and the stack: addresses as whole numbers, and what a store leaves behind

The wraps at 65536 and 256 are arithmetic of `Word` and `Byte`; the round trips are read after write on the
canonical memory (spec/20_memory.md R51 and R58 to R64). -/

section
namespace Sys2Proof.Machine
open Sys2Proof.Spec

/-! ### The addresses the bus primitives form -/

/-- The next address, modulo 65536. -/
theorem word_add_one (a : Word) : a + 1 = BitVec.ofNat 16 ((a.toNat + 1) % 65536) := by bv_omega

/-- The next byte, modulo 256. -/
theorem byte_add_one (b : Byte) : b + 1 = BitVec.ofNat 8 ((b.toNat + 1) % 256) := by bv_omega

/-- The byte before, modulo 256. -/
theorem byte_sub_one (b : Byte) : b - 1 = BitVec.ofNat 8 ((b.toNat + 255) % 256) := by bv_omega

/-- The zero-page address after `p`, wrapping inside page 0. -/
theorem zext16_add_one (p : Byte) : zext16 (p + 1) = BitVec.ofNat 16 ((p.toNat + 1) % 256) := by
  apply BitVec.eq_of_toNat_eq
  rw [zext16_toNat]
  bv_omega

theorem stackAddr_eq_ofNat (sp : Byte) : stackAddr sp = BitVec.ofNat 16 (256 + sp.toNat) := by
  apply BitVec.eq_of_toNat_eq
  rw [stackAddr_toNat]
  bv_omega

/-- Two consecutive bytes as a little-endian word. -/
theorem wordOf_memRead_toNat (m : Memory) (a : Word) :
    (wordOf (memRead m (a + 1)) (memRead m a)).toNat =
      (memRead m a).toNat + 256 * (memRead m (BitVec.ofNat 16 ((a.toNat + 1) % 65536))).toNat := by
  rw [wordOf_toNat, ← word_add_one, Nat.add_comm]

/-! ### A pop undoes a push -/

/-- From a state whose stack is that of `s` with `v` pushed, `PopFromStack` answers `v` and gives `SP`
back, for every `SP` (R63, R64). -/
theorem popFromStack_of_pushed {s t : State} {v : Byte} (hm : s.mem.wf)
    (hmem : t.mem = (pushToStack v s).mem) (hsp : t.sp = (pushToStack v s).sp) :
    (popFromStack t).1 = v ∧ (popFromStack t).2.sp = s.sp := by
  have back : t.sp + 1 = s.sp := by
    rw [hsp]
    exact BitVec.sub_add_cancel s.sp 1
  constructor
  · show memRead t.mem (stackAddr (t.sp + 1)) = v
    rw [back, hmem]
    exact memRead_memWrite_same _ v hm
  · exact back

/-! ### The memory after a storing instruction -/

/-- A store writes its register's byte to the address its resolver answered, in the memory from before. -/
theorem store_mem {r : Reg} {ea : Word × State} {s t : State} (hea : OnlyPcAndMeter s ea.2)
    (h : store r ea = .next t) : t.mem = memWrite s.mem ea.1 (readReg r s) := by
  obtain ⟨n, k, hn⟩ := hea
  rw [store_answers h, hn]
  simp

/-- What a storing instruction makes of the memory: the byte of `storeTarget` at its cell (R170, R201,
R202). -/
theorem exec_mem_of_storeTarget {i : Instr} {s t : State} {ea : Word} {v : Byte}
    (h : exec i s = .next t) (htarget : storeTarget i s = some (ea, v)) :
    t.mem = memWrite s.mem ea v := by
  cases i <;> cases htarget
  case staZp | stxZp | styZp => exact store_mem (addrZeroPage_effect s _) h
  case staZpX | styZpX => exact store_mem (addrZeroPageX_effect s _) h
  case stxZpY => exact store_mem (addrZeroPageY_effect s _) h
  case staAbs | stxAbs | styAbs => exact store_mem (addrAbsolute_effect s _) h
  case staAbsX => exact store_mem (addrAbsoluteX_effect s _ _) h
  case staAbsY => exact store_mem (addrAbsoluteY_effect s _ _) h
  case staIndX => exact store_mem (addrIndirectX_effect s _) h
  case staIndY => exact store_mem (addrIndirectY_effect s _ _) h
  case pha | php => exact congrArg State.mem (push_answers h)

end Sys2Proof.Machine

namespace Sys2Proof.Proofs
open Sys2Proof.Machine Sys2Proof.Spec

/-- Settles O47: a word is two consecutive bytes, and `ZP_PTR_WRAP` decides only where a pointer's high
byte is. -/
theorem wordAndPointerReads : Obligations.WordAndPointerReads := by
  intro s a p
  refine ⟨wordOf_memRead_toNat s.mem a, rfl, rfl, fun hwrap => ?_, fun hwrap => ?_⟩
  · exact congrArg Prod.fst (readPointer_noWrap s p hwrap)
  · rw [readPointer_fst, hwrap, wordOf_toNat, pointerHighAddr, if_pos rfl, zext16_add_one, Nat.add_comm]

/-- Settles O48: every primitive is its definition, with the wraps as whole-number arithmetic. -/
theorem busPrimitives : Obligations.BusPrimitives := by
  intro s a v
  refine ⟨rfl, wordOf_memRead_toNat s.mem s.pc, rfl, rfl, rfl, ?_, ?_⟩
  · rw [← stackAddr_eq_ofNat, ← byte_sub_one]
    rfl
  · have top : stackAddr (s.sp + 1) = BitVec.ofNat 16 (256 + (s.sp.toNat + 1) % 256) := by
      rw [stackAddr_eq_ofNat, BitVec.toNat_add]
      rfl
    rw [← top, ← byte_add_one]
    rfl

/-- Settles O49: read after write on the canonical memory. -/
theorem readSeesTheLastWrite : Obligations.ReadSeesTheLastWrite :=
  fun s a v hm => ⟨memRead_memWrite_same a v hm, fun _ hb => memRead_memWrite_other s.mem v hb,
    fun _ => rfl, rfl⟩

/-- Settles O50: a pull is `PopFromStack` after cycles that touch neither the stack nor `SP`. -/
theorem pushThenPullRoundTrips : Obligations.PushThenPullRoundTrips := by
  intro s hm
  have pulled (v : Byte) : (pull (pushToStack v (tick 1 s))).1 = v ∧
      (pull (pushToStack v (tick 1 s))).2.sp = s.sp := popFromStack_of_pushed hm rfl rfl
  refine ⟨fun v => popFromStack_of_pushed hm rfl rfl, ?_, ?_⟩
  · obtain ⟨ha, hsp⟩ := pulled s.a
    exact ⟨_, _, rfl, rfl, ha, hsp⟩
  · obtain ⟨hp, hsp⟩ := pulled s.p
    exact ⟨_, _, rfl, rfl, hp, hsp⟩

/-- Settles O51: a fetch reads the one memory that the stores write. -/
theorem storesAreSeenByTheNextFetch : Obligations.StoresAreSeenByTheNextFetch := by
  intro i s t ea v hm h htarget
  have stored : memRead t.mem ea = v := by
    rw [exec_mem_of_storeTarget h htarget, memRead_memWrite_same ea v hm]
  exact ⟨stored, congrArg some stored⟩

end Sys2Proof.Proofs
end

/-! ## The decoder and the encoder

A form of the opcode map reads some operand bytes as an instruction; that relation says once what `decode`
accepts, and the checks over the 41 rows tie it to the encoder and to the lengths (spec/30_encoding.md R90
to R100). -/

section
namespace Sys2Proof

/-- The form reads the operand bytes as the instruction (R91, R92). -/
inductive Form.Reads : Form → List Byte → Instr → Prop
  | implied (i : Instr) : Reads (.implied i) [] i
  | oneByte (make : Byte → Instr) (d : Byte) : Reads (.oneByte make) [d] (make d)
  | twoBytes (make : Word → Instr) (lo hi : Byte) :
      Reads (.twoBytes make) [lo, hi] (make (wordOf hi lo))

/-- The number of operand bytes of a form. -/
def Form.operandCount : Form → Nat
  | .implied _ => 0
  | .oneByte _ => 1
  | .twoBytes _ => 2

/-- The instructions that a form makes have the opcode byte `op`, and their encodings hold the operand. -/
def Form.Encodes (op : Byte) : Form → Prop
  | .implied i => encode i = [op]
  | .oneByte make => ∀ d, encode (make d) = [op, d]
  | .twoBytes make => ∀ w, encode (make w) = [op, loByte w, hiByte w]

/-- A word is read from its two bytes. -/
theorem Form.Reads.word (make : Word → Instr) (w : Word) :
    (Form.twoBytes make).Reads [loByte w, hiByte w] (make w) := by
  simpa using Form.Reads.twoBytes make (loByte w) (hiByte w)

/-- Every choice of operand bytes is read (R210). -/
theorem Form.exists_reads {form : Form} {operands : List Byte}
    (h : operands.length = form.operandCount) : ∃ i, form.Reads operands i := by
  match form, operands, h with
  | .implied i, [], _ => exact ⟨i, .implied i⟩
  | .oneByte make, [d], _ => exact ⟨make d, .oneByte make d⟩
  | .twoBytes make, [lo, hi], _ => exact ⟨make (wordOf hi lo), .twoBytes make lo hi⟩

/-- What a form reads, it reads from the bytes the instruction encodes to. -/
theorem Form.Encodes.encode_eq {op : Byte} {form : Form} {operands : List Byte} {i : Instr}
    (h : form.Encodes op) (hr : form.Reads operands i) : encode i = op :: operands := by
  cases hr with
  | implied i => exact h
  | oneByte make d => exact h d
  | twoBytes make lo hi => simpa using h (wordOf hi lo)

/-! ### The rows of the opcode map -/

section
variable {op : Byte} {form : Form}

theorem mem_decoderTable_of_lookup (h : decoderTable.lookup op = some form) :
    (op, form) ∈ decoderTable := by
  obtain ⟨l₁, l₂, hl, -⟩ := List.lookup_eq_some_iff.mp h
  simp [hl]

/-- Each of the 41 rows has the opcode and the operand order of the encoder. -/
theorem forall_row_encodes : ∀ row ∈ decoderTable, row.2.Encodes row.1 := by
  simp only [decoderTable, ldaForms, ldxForms, ldyForms, staForms, stxForms, styForms, transferForms,
    stackForms, List.forall_mem_append, List.forall_mem_cons, Form.Encodes]
  simp [encode, Instr.opcode, Instr.operandBytes]

/-- Each of the 41 rows has the length that R93 gives its opcode. -/
theorem forall_row_length :
    ∀ row ∈ decoderTable, opcodeLength row.1 = some (row.2.operandCount + 1) := by
  decide

theorem encodes_of_lookup (h : decoderTable.lookup op = some form) : form.Encodes op :=
  forall_row_encodes _ (mem_decoderTable_of_lookup h)

theorem opcodeLength_of_lookup (h : decoderTable.lookup op = some form) :
    opcodeLength op = some (form.operandCount + 1) :=
  forall_row_length _ (mem_decoderTable_of_lookup h)

/-- A byte has a length exactly if it is mapped (R95). -/
theorem mem_mappedOpcodes_iff : op ∈ mappedOpcodes ↔ ∃ n, opcodeLength op = some n := by
  simp only [mappedOpcodes, List.mem_append, opcodeLength]
  split_ifs <;> simp_all

theorem mapped_of_lookup (h : decoderTable.lookup op = some form) : op ∈ mappedOpcodes :=
  mem_mappedOpcodes_iff.mpr ⟨_, opcodeLength_of_lookup h⟩

theorem lookup_of_mapped (h : op ∈ mappedOpcodes) : ∃ form, decoderTable.lookup op = some form :=
  Option.isSome_iff_exists.mp (Machine.lookup_mapped op h)

theorem lookup_of_unmapped (h : op ∉ mappedOpcodes) : decoderTable.lookup op = none :=
  Option.eq_none_iff_forall_ne_some.mpr fun _ hl => h (mapped_of_lookup hl)

end

/-- The row of an instruction's opcode reads the instruction back from its operand bytes. -/
theorem lookup_opcode (i : Instr) :
    ∃ form, decoderTable.lookup i.opcode = some form ∧ form.Reads i.operandBytes i := by
  cases i
  case tax | txa | tay | tya | tsx | txs | pha | php | pla | plp => exact ⟨_, rfl, .implied _⟩
  case ldaImm | ldaZp | ldaZpX | ldaIndX | ldaIndY | ldxImm | ldxZp | ldxZpY | ldyImm | ldyZp |
      ldyZpX | staZp | staZpX | staIndX | staIndY | stxZp | stxZpY | styZp | styZpX =>
    exact ⟨_, rfl, .oneByte _ _⟩
  case ldaAbs | ldaAbsX | ldaAbsY | ldxAbs | ldxAbsY | ldyAbs | ldyAbsX | staAbs | staAbsX | staAbsY |
      stxAbs | styAbs => exact ⟨_, rfl, .word _ _⟩

/-! ### What the decoder answers -/

section
variable {op : Byte} {form : Form} {operands rest : List Byte} {i : Instr}

theorem decode_of_lookup_none (h : decoderTable.lookup op = none) (rest : List Byte) :
    decode (op :: rest) = .error (.unknownOpcode op) := by
  simp [decode, h]

theorem decode_of_reads (h : decoderTable.lookup op = some form) (hr : form.Reads operands i)
    (rest : List Byte) : decode (op :: (operands ++ rest)) = .ok (i, rest) := by
  cases hr <;> simp [decode, h]

theorem decode_of_short (h : decoderTable.lookup op = some form)
    (hlen : rest.length < form.operandCount) :
    decode (op :: rest) = .error (.missingOperand op) := by
  match form, rest, hlen with
  | .oneByte _, [], _ => simp [decode, h]
  | .twoBytes _, [], _ => simp [decode, h]
  | .twoBytes _, [_], _ => simp [decode, h]

/-- A sequence with enough bytes decodes, and what stands after the operand is left. -/
theorem decode_of_long (h : decoderTable.lookup op = some form)
    (hlen : form.operandCount ≤ rest.length) :
    ∃ i, decode (op :: rest) = .ok (i, rest.drop form.operandCount) := by
  obtain ⟨i, hr⟩ := form.exists_reads (List.length_take_of_le hlen)
  refine ⟨i, ?_⟩
  simpa using decode_of_reads h hr (rest.drop form.operandCount)

/-- Everything the decoder accepts: an opcode of the map, and operand bytes that its row reads. -/
theorem decode_eq_ok_iff {bytes : List Byte} :
    decode bytes = .ok (i, rest) ↔ ∃ op form operands, bytes = op :: (operands ++ rest) ∧
      decoderTable.lookup op = some form ∧ form.Reads operands i := by
  constructor
  · intro h
    match bytes with
    | [] => cases h
    | op :: tail =>
      cases hl : decoderTable.lookup op with
      | none => simp [decode_of_lookup_none hl] at h
      | some form =>
        by_cases hlen : tail.length < form.operandCount
        · simp [decode_of_short hl hlen] at h
        · obtain ⟨j, hr⟩ := form.exists_reads (List.length_take_of_le (not_lt.mp hlen))
          have hd := decode_of_reads hl hr (tail.drop form.operandCount)
          rw [List.take_append_drop, h] at hd
          obtain ⟨rfl, rfl⟩ := Prod.mk.inj (Except.ok.inj hd)
          exact ⟨op, form, _, by rw [List.take_append_drop], hl, hr⟩
  · rintro ⟨op, form, operands, rfl, hl, hr⟩
    exact decode_of_reads hl hr rest

end

/-- Decoding undoes encoding, whatever follows. -/
theorem decode_encode (i : Instr) (rest : List Byte) : decode (encode i ++ rest) = .ok (i, rest) := by
  obtain ⟨form, hl, hr⟩ := lookup_opcode i
  exact decode_of_reads hl hr rest

/-- Encoding undoes decoding: no bit of the operand is dropped. -/
theorem eq_encode_of_decode {bytes rest : List Byte} {i : Instr} (h : decode bytes = .ok (i, rest)) :
    bytes = encode i ++ rest := by
  obtain ⟨op, form, operands, rfl, hl, hr⟩ := decode_eq_ok_iff.mp h
  rw [(encodes_of_lookup hl).encode_eq hr, List.cons_append]

/-! ### The names of the rows -/

/-- The mnemonic of the instruction that an opcode byte begins; two zero bytes are operand enough. -/
def opcodeMnemonic (op : Byte) : Option String :=
  match decode [op, 0#8, 0#8] with
  | .ok (i, _) => some i.mnemonic
  | .error _ => none

theorem opcodeMnemonic_opcode (i : Instr) : opcodeMnemonic i.opcode = some i.mnemonic := by
  cases i <;> rfl

/-- The 41 opcodes have 41 different mnemonics. -/
theorem nodup_map_opcodeMnemonic : (mappedOpcodes.map opcodeMnemonic).Nodup := by
  decide

theorem opcode_mem_mappedOpcodes (i : Instr) : i.opcode ∈ mappedOpcodes := by
  obtain ⟨form, hl, -⟩ := lookup_opcode i
  exact mapped_of_lookup hl

/-- Every mapped byte is the opcode of some instruction. -/
theorem exists_opcode_eq {op : Byte} (h : op ∈ mappedOpcodes) : ∃ i : Instr, i.opcode = op := by
  obtain ⟨⟨i, rest⟩, hd⟩ := Machine.decode_threeBytes h 0#8 0#8
  exact ⟨i, (List.cons.inj (eq_encode_of_decode hd)).1.symm⟩

theorem opcode_eq_iff_mnemonic_eq (i j : Instr) : i.opcode = j.opcode ↔ i.mnemonic = j.mnemonic := by
  constructor
  · intro h
    apply Option.some.inj
    rw [← opcodeMnemonic_opcode, h, opcodeMnemonic_opcode]
  · intro h
    apply List.inj_on_of_nodup_map nodup_map_opcodeMnemonic (opcode_mem_mappedOpcodes i)
      (opcode_mem_mappedOpcodes j)
    rw [opcodeMnemonic_opcode, opcodeMnemonic_opcode, h]

end Sys2Proof

namespace Sys2Proof.Proofs

/-- Settles O7: the row of the opcode reads the instruction back from its operand bytes. -/
theorem decodeOfEncode : Obligations.DecodeOfEncode := decode_encode

/-- Settles O8: what the decoder accepts is a row's opcode and the operand bytes that the row reads. -/
theorem encodeOfDecode : Obligations.EncodeOfDecode := fun _ _ _ => eq_encode_of_decode

/-- Settles O9: an opcode has the mnemonic of its row, and the 41 mnemonics differ. -/
theorem opcodeMapIsOneToOne : Obligations.OpcodeMapIsOneToOne :=
  ⟨opcode_eq_iff_mnemonic_eq, opcode_mem_mappedOpcodes, fun _ => exists_opcode_eq, rfl, by decide⟩

/-- Settles O10: a mapped opcode has a row with the operand bytes its length asks for. -/
theorem decoderAcceptsExactlyTheMappedOpcodes :
    Obligations.DecoderAcceptsExactlyTheMappedOpcodes := by
  intro op rest
  refine ⟨fun h => decode_of_lookup_none (lookup_of_unmapped h) rest, fun n hn => ?_⟩
  obtain ⟨form, hl⟩ := lookup_of_mapped (mem_mappedOpcodes_iff.mpr ⟨n, hn⟩)
  obtain rfl : form.operandCount + 1 = n := Option.some.inj ((opcodeLength_of_lookup hl).symm.trans hn)
  exact ⟨fun h => decode_of_long hl (Nat.le_of_succ_le_succ h),
    fun h => decode_of_short hl (Nat.lt_of_succ_lt_succ h)⟩

/-- Settles O6: the words run through the decoder. -/
theorem sampleWordsDecode : Obligations.SampleWordsDecode :=
  ⟨rfl, rfl, rfl, rfl, rfl, rfl, rfl, rfl, rfl, rfl, rfl⟩

end Sys2Proof.Proofs
end

/-! ## The resolvers: addresses as whole numbers, and the state after each

Every resolver moves `PC` past its operand and charges its cycles; the wraps and the page crossings are
arithmetic of `Word` and `Byte` (spec/40_addressing.md R112 to R123). -/

section
namespace Sys2Proof.Machine
open Sys2Proof.Spec

/-! ### The addresses the index additions form -/

/-- Indexing in page 0 is modulo 256 (R114, R115). -/
theorem zext16_add_toNat (base index : Byte) :
    (zext16 (base + index)).toNat = (base.toNat + index.toNat) % 256 := by
  rw [zext16_toNat, BitVec.toNat_add]

/-- Indexing at 16 bits is modulo 65536 (R117, R118, R122). -/
theorem add_zext16_toNat (base : Word) (index : Byte) :
    (base + zext16 index).toNat = (base.toNat + index.toNat) % 65536 := by
  rw [BitVec.toNat_add, zext16_toNat]

/-- Adding a byte sign-extended adds its signed value modulo 65536 (R123). -/
theorem add_sext16_toNat (base : Word) (d : Byte) :
    ((base + sext16 d).toNat : Int) = ((base.toNat : Int) + d.toInt) % 65536 := by
  have signed : (sext16 d).toInt = d.toInt := BitVec.toInt_signExtend_of_le (by decide)
  rw [← signed, BitVec.toNat_add, BitVec.toInt_eq_toNat_cond]
  split <;> omega

/-! ### The page crossing (R119) -/

theorem crossing_eq_one_iff (base : Word) (index : Byte) :
    crossing base index = 1 ↔ base.toNat / 256 ≠ (base.toNat + index.toNat) % 65536 / 256 := by
  unfold crossing
  split <;> simp [*]

/-- The detector compares the pages before and after the index addition. -/
theorem crossed_add_zext16 (base : Word) (index : Byte) :
    crossed base (base + zext16 index) = (crossing base index == 1) := by
  rw [Bool.eq_iff_iff, crossed, bne_iff_ne, beq_iff_eq, crossing_eq_one_iff, ne_eq, page_eq_iff,
    add_zext16_toNat]

theorem crossing_zero (base : Word) : crossing base 0#8 = 0 := by
  have inRange := base.isLt
  exact if_pos (by simp [Nat.mod_eq_of_lt inRange])

/-- An index is below 256, so a crossing reaches the next page and no other; after the last comes page 0. -/
theorem page_of_crossing {base : Word} {index : Byte} (h : crossing base index = 1) :
    (base + zext16 index).toNat / 256 = (base.toNat / 256 + 1) % 256 := by
  have changed := (crossing_eq_one_iff base index).mp h
  have inRange := base.isLt
  have indexInRange := index.isLt
  rw [add_zext16_toNat]
  omega

/-- A fixed-cycle caller pays one cycle, a variable-cycle caller pays for a crossing. -/
theorem penaltyCycles_add_zext16 (fixed : Bool) (base : Word) (index : Byte) :
    (penaltyCycles fixed base (base + zext16 index) : Int) =
      if fixed then 1 else (crossing base index : Int) := by
  rw [penaltyCycles, crossed_add_zext16]
  cases fixed with
  | true => rfl
  | false => unfold crossing; split <;> rfl

/-! ### The state after each resolver -/

section
variable (s : State)

theorem addrZeroPageX_snd (d : Byte) : (addrZeroPageX d s).2 = tick 2 (advancePc 1 s) :=
  tick_tick _ 1 1

theorem addrZeroPageY_snd (d : Byte) : (addrZeroPageY d s).2 = tick 2 (advancePc 1 s) :=
  tick_tick _ 1 1

theorem addrIndirect_snd (w : Word) : (addrIndirect w s).2 = tick 4 (advancePc 2 s) :=
  tick_tick _ 2 2

theorem addrIndirectX_snd (d : Byte) : (addrIndirectX d s).2 = tick 4 (advancePc 1 s) := by
  rw [addrIndirectX, readPointer_snd, consumeByte_eq, tick_tick, tick_tick]

theorem addrRelative_snd (d : Byte) : (addrRelative d s).2 = tick 2 (advancePc 1 s) :=
  tick_tick _ 1 1

/-- The tail of the indexed modes charges the penalty and changes nothing else. -/
theorem indexed_snd (fixed : Bool) (base : Word) (index : Byte) :
    (indexed fixed base index s).2 =
      { s with cyc := s.cyc - (if fixed then 1 else (crossing base index : Int)) } := by
  rw [indexed, indexPenalty_eq, tick, penaltyCycles_add_zext16]

theorem addrIndirectY_snd (fixed : Bool) (d : Byte) :
    (addrIndirectY fixed d s).2 =
      (indexed fixed (pointer s d) s.y (tick 3 (advancePc 1 s))).2 :=
  congrArg (fun t => (indexed fixed (pointer s d) s.y t).2) (tick_tick _ 2 1)

end

end Sys2Proof.Machine

namespace Sys2Proof.Proofs
open Sys2Proof.Machine Sys2Proof.Spec

/-- Settles O43: each resolver is one move of `PC` and one charge, the indexed ones with the penalty. -/
theorem resolversChangeOnlyPcAndMeter : Obligations.ResolversChangeOnlyPcAndMeter := by
  intro s d w fixed
  refine ⟨rfl, rfl, addrZeroPageX_snd s d, addrZeroPageY_snd s d, rfl, ?absoluteX, ?absoluteY,
    addrIndirect_snd s w, addrIndirectX_snd s d, ?indirectY, addrRelative_snd s d⟩
  case absoluteX => exact indexed_snd (consumeWord s) fixed w s.x
  case absoluteY => exact indexed_snd (consumeWord s) fixed w s.y
  case indirectY => exact (addrIndirectY_snd s fixed d).trans (indexed_snd _ fixed (pointer s d) s.y)

/-- Settles O44: the index is added at 8 bits and the sum extended with zeros. -/
theorem zeroPageModesStayInPageZero : Obligations.ZeroPageModesStayInPageZero :=
  fun s d => ⟨zext16_toNat d, zext16_add_toNat d s.x, zext16_add_toNat d s.y, rfl,
    addrZeroPageX_snd s d, addrZeroPageY_snd s d⟩

/-- Settles O45: the index is added at 16 bits, and the detector compares pages as whole numbers. -/
theorem pageCrossing : Obligations.PageCrossing := by
  intro s w fixed
  refine ⟨add_zext16_toNat w s.x, add_zext16_toNat w s.y, crossed_add_zext16 w, ?_, fun index h => ?_⟩
  · rw [crossed_add_zext16, crossing_zero]
    rfl
  · rw [crossed_add_zext16, beq_iff_eq] at h
    exact page_of_crossing h

/-- Settles O46: Indirect is `ReadWord` at the operand, and Relative adds to the `PC` past its operand. -/
theorem indirectAndRelativeResolvers : Obligations.IndirectAndRelativeResolvers :=
  fun s w d => ⟨wordOf_toNat _ _, add_sext16_toNat (s.pc + 1) d, addrIndirect_snd s w,
    addrRelative_snd s d⟩

end Sys2Proof.Proofs
end

/-! ## One step and the Execute transaction

The forward rules of one step settle the transitions of `RUN`.  An instruction always charges a cycle beyond
its opcode fetch, so a call uses up its budget, and its steps are the turns of the loop of R130
(spec/41_dispatch.md R130 to R139). -/

section
namespace Sys2Proof.Machine

/-! ### Which branch a step takes -/

/-- An instruction decodes at `PC` exactly where the byte there is mapped (spec/30_encoding.md R95, R100). -/
theorem nextInstr_eq_none_iff {s : State} :
    nextInstr s = none ↔ memRead s.mem s.pc ∉ mappedOpcodes := by
  refine ⟨unmapped_of_nextInstr_none, fun h => ?_⟩
  rw [nextInstr, instructionBytes, decode_of_lookup_none (lookup_of_unmapped h)]

theorem exists_nextInstr {s : State} (h : memRead s.mem s.pc ∈ mappedOpcodes) :
    ∃ i, nextInstr s = some i :=
  Option.ne_none_iff_exists'.mp fun hn => nextInstr_eq_none_iff.mp hn h

theorem halted_or_faulted {s : State} (h : s.run ≠ .running) :
    s.run = .halted ∨ ∃ c, s.run = .faulted c := by
  cases hr : s.run with
  | halted => exact .inl rfl
  | running => exact absurd hr h
  | faulted c => exact .inr ⟨c, rfl⟩

/-- From every state a step answers a next state. -/
theorem step_answers (s : State) : ∃ t, step s = .next t := by
  by_cases hr : s.run = .running
  · exact step_running_answers hr
  · exact ⟨_, step_notRunning hr⟩

theorem step_idle {s : State} (hr : s.run ≠ .running) (hb : s.inbox = []) : step s = .next s := by
  rw [step_notRunning hr, stepNotRunning_idle hb]

/-- An Execute call on a Halted core loads the meter and makes the first loop test (R130). -/
theorem step_execute_halted {s : State} {b : Nat} {rest : List HostMove} (hr : s.run = .halted)
    (hb : s.inbox = .execute b :: rest) :
    step s = .next (setRun (if 0 < b then .running else .halted)
      { s with cyc := b, inbox := rest }) := by
  rw [step_hostMove (by simp [hr]) hb, applyHostMove, beginExecute_unfaulted b (by simp [hr])]
  rfl

/-- An Execute call on a Faulted core is only taken from the list (spec/60_exceptions.md R218). -/
theorem step_execute_faulted {s : State} {c : FaultCause} {b : Nat} {rest : List HostMove}
    (hr : s.run = .faulted c) (hb : s.inbox = .execute b :: rest) :
    step s = .next { s with inbox := rest } := by
  rw [step_hostMove (by simp [hr]) hb, applyHostMove]
  exact congrArg _ (beginExecute_faulted b hr)

/-! ### `RUN` after a step -/

/-- After an instruction `RUN` is what the loop test makes of the meter (R132). -/
theorem step_mapped_run {s t : State} (hr : s.run = .running) (hc : 0 < s.cyc)
    (hop : memRead s.mem s.pc ∈ mappedOpcodes) (h : step s = .next t) :
    t.run = if 0 < t.cyc then .running else .halted := by
  obtain ⟨i, hi⟩ := exists_nextInstr hop
  obtain ⟨u, hu⟩ := exec_answers i (fetchByte s).2
  obtain rfl := Host.Outcome.next.inj ((step_performs hr hc hi hu).symm.trans h)
  rfl

/-- No move but Execute takes the core out of Halted. -/
theorem applyHostMove_halted {m : HostMove} {s : State} (hr : s.run = .halted)
    (hm : ∀ b, m ≠ .execute b) : (applyHostMove m s).run = .halted := by
  by_cases hreset : m = .reset
  · subst hreset
    rfl
  · rw [(applyHostMove_run_cyc m s hreset hm).1, hr]

/-- No move but Reset takes the core out of Faulted (spec/60_exceptions.md R218). -/
theorem applyHostMove_faulted {m : HostMove} {s : State} {c : FaultCause} (hr : s.run = .faulted c)
    (hm : m ≠ .reset) : (applyHostMove m s).run = .faulted c := by
  by_cases hexec : ∃ b, m = .execute b
  · obtain ⟨b, rfl⟩ := hexec
    rw [applyHostMove, beginExecute_faulted b hr, hr]
  · rw [(applyHostMove_run_cyc m s hm (by simpa using hexec)).1, hr]

/-- Between calls `RUN` stays if the move that waits first keeps it, and with no move it stays too. -/
theorem step_keeps_run {s t : State} {r : RunState} (hr : s.run = r) (hn : r ≠ .running)
    (h : step s = .next t)
    (hmove : ∀ m rest, s.inbox = m :: rest → (applyHostMove m { s with inbox := rest }).run = r) :
    t.run = r := by
  rw [step_notRunning (hr ▸ hn)] at h
  obtain rfl : stepNotRunning s = t := Host.Outcome.next.inj h
  cases hi : s.inbox with
  | nil => rw [stepNotRunning_idle hi, hr]
  | cons m rest => rw [stepNotRunning_move hi, hmove m rest hi]

/-! ### Every instruction charges a cycle after its opcode fetch -/

section
variable {s t : State} {r : Reg} {ea : Word × State}

theorem OnlyPcAndMeter.cyc_le (h : OnlyPcAndMeter s t) : t.cyc ≤ s.cyc := by
  obtain ⟨n, k, rfl⟩ := h
  simp

theorem load_cyc_lt (hea : OnlyPcAndMeter s ea.2) (h : load r ea = .next t) : t.cyc < s.cyc := by
  have resolved := hea.cyc_le
  simp only [load_answers h, applyZN_cyc, writeReg_cyc, tick_cyc]
  omega

theorem store_cyc_lt (hea : OnlyPcAndMeter s ea.2) (h : store r ea = .next t) : t.cyc < s.cyc := by
  have resolved := hea.cyc_le
  simp only [store_answers h, storeCell_cyc, tick_cyc]
  omega

/-- No instruction is done with its opcode fetch: each charges at least one cycle more (R249). -/
theorem exec_cyc_lt {i : Instr} (h : exec i s = .next t) : t.cyc < s.cyc := by
  cases i
  case ldaImm | ldxImm | ldyImm => simp [loadValue_answers h, operandImmediate]
  case ldaZp | ldxZp | ldyZp => exact load_cyc_lt (addrZeroPage_effect s _) h
  case ldaZpX | ldyZpX => exact load_cyc_lt (addrZeroPageX_effect s _) h
  case ldxZpY => exact load_cyc_lt (addrZeroPageY_effect s _) h
  case ldaAbs | ldxAbs | ldyAbs => exact load_cyc_lt (addrAbsolute_effect s _) h
  case ldaAbsX | ldyAbsX => exact load_cyc_lt (addrAbsoluteX_effect s _ _) h
  case ldaAbsY | ldxAbsY => exact load_cyc_lt (addrAbsoluteY_effect s _ _) h
  case ldaIndX => exact load_cyc_lt (addrIndirectX_effect s _) h
  case ldaIndY => exact load_cyc_lt (addrIndirectY_effect s _ _) h
  case staZp | stxZp | styZp => exact store_cyc_lt (addrZeroPage_effect s _) h
  case staZpX | styZpX => exact store_cyc_lt (addrZeroPageX_effect s _) h
  case stxZpY => exact store_cyc_lt (addrZeroPageY_effect s _) h
  case staAbs | stxAbs | styAbs => exact store_cyc_lt (addrAbsolute_effect s _) h
  case staAbsX => exact store_cyc_lt (addrAbsoluteX_effect s _ _) h
  case staAbsY => exact store_cyc_lt (addrAbsoluteY_effect s _ _) h
  case staIndX => exact store_cyc_lt (addrIndirectX_effect s _) h
  case staIndY => exact store_cyc_lt (addrIndirectY_effect s _ _) h
  case tax | txa | tay | tya | tsx => simp [transferTo_answers h]
  case txs =>
    obtain rfl : setSp s.x (tick 1 s) = t := Host.Outcome.next.inj h
    simp
  case pha | php => simp [push_answers h]
  case pla =>
    obtain rfl : applyZN (pull s).1 (writeReg .a (pull s).1 (pull s).2) = t := Host.Outcome.next.inj h
    simp [pull_snd]
  case plp =>
    obtain rfl : setP (pull s).1 (pull s).2 = t := Host.Outcome.next.inj h
    simp [pull_snd]

/-- An instruction with its opcode fetch takes at least two cycles (R249). -/
theorem exec_fetched_cyc_le {i : Instr} (h : exec i (fetchByte s).2 = .next t) :
    t.cyc ≤ s.cyc - 2 := by
  have charged : t.cyc < s.cyc - 1 := exec_cyc_lt h
  omega

end

/-! ### A call uses up its budget -/

/-- With no move waiting a core that is not Running stays as it is, however many steps it makes. -/
theorem runSteps_idle (k : Nat) {s : State} (hr : s.run ≠ .running) (hb : s.inbox = []) :
    runSteps k s = .next s := by
  induction k with
  | zero => rfl
  | succ k ih => rw [runSteps_succ k (step_idle hr hb), ih]

/-- A call in progress still has cycles, and at most two for each of the steps to come. -/
def CallFits (k : Nat) (s : State) : Prop := s.run = .running → 0 < s.cyc ∧ s.cyc ≤ 2 * k

/-- A step of a call in progress takes at least two cycles or ends the call. -/
theorem CallFits.step {k : Nat} {s t : State} (hfit : CallFits (k + 1) s) (hr : s.run = .running)
    (h : step s = .next t) : CallFits k t := by
  obtain ⟨hpos, hle⟩ := hfit hr
  obtain ⟨-, hc, -⟩ | ⟨-, -, -, rfl⟩ | ⟨-, -, i, u, -, hu, rfl⟩ | ⟨hn, -⟩ | ⟨hn, -⟩ := step_cases h
  · omega
  · exact fun hrun => by simp at hrun
  · intro hrun
    have charged := exec_fetched_cyc_le hu
    by_cases hu0 : 0 < u.cyc
    · exact ⟨hu0, show u.cyc ≤ 2 * k by push_cast at hle; omega⟩
    · simp [hu0] at hrun
  · exact absurd hr hn
  · exact absurd hr hn

/-- A call that fits into `k` steps has ended after them. -/
theorem runSteps_ends {k : Nat} {s : State} (hb : s.inbox = []) (hfit : CallFits k s) :
    ∃ t, runSteps k s = .next t ∧ t.run ≠ .running := by
  induction k generalizing s with
  | zero =>
    refine ⟨s, rfl, fun hr => ?_⟩
    obtain ⟨hpos, hle⟩ := hfit hr
    omega
  | succ k ih =>
    by_cases hr : s.run = .running
    · obtain ⟨t, ht⟩ := step_running_answers hr
      rw [runSteps_succ k ht]
      exact ih ((step_running_inbox hr ht).trans hb) (hfit.step hr ht)
    · exact ⟨s, runSteps_idle _ hr hb, hr⟩

/-! ### The turns of the loop of R130 -/

section
variable (n : Nat) {s : State}

theorem executeLoop_spent (hc : s.cyc ≤ 0) : executeLoop (n + 1) s = .next (setRun .halted s) := by
  rw [executeLoop, if_neg (by omega)]

theorem executeLoop_unknownOpcode (hc : 0 < s.cyc) (hi : nextInstr (setRun .running s) = none) :
    executeLoop (n + 1) s =
      .next (raise (.unknownOpcode (memRead s.mem s.pc) s.pc) (fetchByte (setRun .running s)).2) := by
  rw [executeLoop, if_pos hc, runInstruction_none hi]
  rfl

theorem executeLoop_performs {i : Instr} {u : State} (hc : 0 < s.cyc)
    (hi : nextInstr (setRun .running s) = some i)
    (hu : exec i (fetchByte (setRun .running s)).2 = .next u) :
    executeLoop (n + 1) s = executeLoop n u := by
  have hk : u.run = .running := (exec_keeps hu).run
  rw [executeLoop, if_pos hc, runInstruction_some hi, hu]
  simp [hk]

end

/-- The loop from its test is the steps from the state that the test makes: one turn for each, as every
instruction charges a cycle, and a last test that finds the meter spent. -/
theorem executeLoop_eq_runSteps (n : Nat) {s : State} (hb : s.inbox = []) (hn : s.cyc ≤ n) :
    executeLoop (n + 1) s = runSteps n (setRun (if 0 < s.cyc then .running else .halted) s) := by
  induction n generalizing s with
  | zero => rw [executeLoop_spent 0 hn, if_neg (by simpa using hn), runSteps]
  | succ n ih =>
    by_cases hc : 0 < s.cyc
    · rw [if_pos hc]
      cases hi : nextInstr (setRun .running s) with
      | none =>
        have raised := step_unknownOpcode (s := setRun .running s) rfl hc hi
        rw [executeLoop_unknownOpcode _ hc hi, runSteps_succ n raised]
        exact (runSteps_idle n (s := raise _ (fetchByte (setRun .running s)).2) (by simp) hb).symm
      | some i =>
        obtain ⟨u, hu⟩ := exec_answers i (fetchByte (setRun .running s)).2
        have charged : u.cyc ≤ s.cyc - 2 := exec_fetched_cyc_le (s := setRun .running s) hu
        have performed := step_performs (s := setRun .running s) rfl hc hi hu
        rw [executeLoop_performs _ hc hi hu, runSteps_succ n performed]
        exact ih ((exec_keeps hu).inbox.trans hb) (by push_cast at hn; omega)
    · rw [executeLoop_spent _ (by omega), if_neg hc]
      exact (runSteps_idle _ (s := setRun .halted s) (by simp) hb).symm

theorem execute_faulted {s : State} {c : FaultCause} (b : Nat) (hr : s.run = .faulted c) :
    execute b s = .next s := by
  simp [execute, hr]

theorem execute_halted {s : State} (b : Nat) (hr : s.run = .halted) :
    execute b s = executeLoop (b + 1) { s with cyc := b } := by
  simp [execute, hr]

end Sys2Proof.Machine

namespace Sys2Proof.Proofs
open Sys2Proof.Machine

/-- Settles O16: a Running core's every branch answers, and any other core makes the host's move or idles. -/
theorem everyStepAnswersANextState : Obligations.EveryStepAnswersANextState := step_answers

/-- Settles O11: the fetch is the state that `exec` is asked for. -/
theorem stepRunsTheDecodedInstruction : Obligations.StepRunsTheDecodedInstruction := by
  intro s i hr hc hi
  obtain ⟨t, ht⟩ := exec_answers i (fetchByte s).2
  exact ⟨t, ht, step_performs hr hc hi ht⟩

/-- Settles O18: the first loop test finds cycles left exactly for a positive budget. -/
theorem executeLoadsItsBudget : Obligations.ExecuteLoadsItsBudget := by
  intro s budget rest hr hb
  rw [step_execute_halted hr hb]
  cases budget <;> rfl

/-- Settles O14: each row of R132 is one forward rule of the step. -/
theorem runStateTransitions : Obligations.RunStateTransitions := by
  intro s
  obtain ⟨t, ht⟩ := step_answers s
  have answer {u : State} (h : step s = .next u) : t = u := Host.Outcome.next.inj (ht.symm.trans h)
  refine ⟨t, ht, ?execute, ?executeZero, ?staysHalted, ?goesOn, ?ends, ?faults, ?spent, ?staysFaulted,
    ?reset⟩
  case execute =>
    intro hr b rest hb hpos
    rw [answer (step_execute_halted hr hb), setRun_run, if_pos hpos]
  case executeZero =>
    intro hr rest hb
    rw [answer (step_execute_halted hr hb)]
    rfl
  case staysHalted =>
    exact fun hr hb => step_keeps_run hr (by decide) ht fun m rest hi =>
      applyHostMove_halted hr fun b hm => hb b rest (hm ▸ hi)
  case goesOn =>
    intro hr hc hop hpos
    rw [step_mapped_run hr hc hop ht, if_pos hpos]
  case ends =>
    intro hr hc hop hle
    rw [step_mapped_run hr hc hop ht, if_neg (by omega)]
  case faults =>
    intro hr hc hop
    rw [answer (step_unknownOpcode hr hc (nextInstr_eq_none_iff.mpr hop)), raise_run]
  case spent =>
    intro hr hc
    rw [answer (step_spent hr hc), setRun_run]
  case staysFaulted =>
    exact fun cause hr hb => step_keeps_run hr (by simp) ht fun m rest hi =>
      applyHostMove_faulted hr fun hm => hb (by rw [hi, hm]; rfl)
  case reset =>
    intro hn rest hb
    rw [answer (step_hostMove hn hb)]
    rfl

/-- Settles O21: one cycle pays for the fetch, so any instruction leaves the meter below 0 and the loop
test halts. -/
theorem executeOneSingleSteps : Obligations.ExecuteOneSingleSteps := by
  intro s i hr hb hi
  have start := step_execute_halted hr hb
  obtain ⟨t, ht⟩ := exec_answers i { s with pc := s.pc + 1, cyc := 0, run := .running, inbox := [] }
  have spent : ¬ 0 < t.cyc := (exec_cyc_lt ht).asymm
  have perform := step_performs (s := setRun .running { s with cyc := 1, inbox := [] }) rfl
    Int.one_pos hi ht
  rw [if_neg spent] at perform
  exact ⟨t, ht, (runSteps_succ 1 start).trans (runSteps_succ 0 perform)⟩

/-- Settles O20: two cycles go with each step, and half the budget rounded up covers all of them. -/
theorem executeEndsWithinItsBudget : Obligations.ExecuteEndsWithinItsBudget := by
  intro s budget hn hb
  rw [Nat.add_comm 1]
  obtain hr | ⟨c, hr⟩ := halted_or_faulted hn
  · rw [runSteps_succ _ (step_execute_halted hr hb)]
    refine runSteps_ends rfl fun h => ?_
    by_cases hpos : 0 < budget
    · exact ⟨by simpa using hpos, show (budget : Int) ≤ 2 * ((budget + 1) / 2 : Nat) by omega⟩
    · simp [hpos] at h
  · rw [runSteps_succ _ (step_execute_faulted hr hb)]
    exact runSteps_ends rfl fun h => absurd h hn

/-- Settles O19: the first step is the call's start with the first loop test, and each further step is a
turn of the loop with the test after it. -/
theorem steppingIsTheExecuteLoop : Obligations.SteppingIsTheExecuteLoop := by
  intro s budget hn hb
  obtain hr | ⟨c, hr⟩ := halted_or_faulted hn
  · have start : step { s with inbox := [.execute budget] } =
        .next (setRun (if 0 < budget then .running else .halted) { s with cyc := budget }) :=
      (step_execute_halted (s := { s with inbox := [.execute budget] }) hr rfl).trans (by rw [← hb])
    rw [execute_halted budget hr, runSteps_succ _ start,
      executeLoop_eq_runSteps (s := { s with cyc := budget }) budget hb le_rfl]
    simp only [Int.natCast_pos]
  · have start : step { s with inbox := [.execute budget] } = .next s :=
      (step_execute_faulted (s := { s with inbox := [.execute budget] }) hr rfl).trans (by rw [← hb])
    rw [execute_faulted budget hr, runSteps_succ _ start, runSteps_idle budget hn hb]

end Sys2Proof.Proofs
end

/-! ## The decoded instruction and the reference interpreter

The decoder's window holds the bytes that the interpreter fetches one by one, each resolver is its mode's
`resolve`, and so every instruction is the row of its opcode (spec/41_dispatch.md R131, R137). -/

section
namespace Sys2Proof.Machine

/-- The bytes that an operand fetch at `PC` reads, at most two (spec/30_encoding.md R91). -/
def operandWindow (s : State) : List Byte := [memRead s.mem s.pc, memRead s.mem (s.pc + 1)]

/-- A decoded instruction has its opcode byte at `PC` and its operand in the window after the opcode fetch. -/
theorem bytes_of_nextInstr {s : State} {i : Instr} (h : nextInstr s = some i) :
    memRead s.mem s.pc = i.opcode ∧ i.operandBytes <+: operandWindow (fetchByte s).2 := by
  unfold nextInstr at h
  split at h
  next j rest hd =>
    obtain rfl := Option.some.inj h
    obtain ⟨hop, hrest⟩ := List.cons.inj (eq_encode_of_decode hd)
    refine ⟨hop, rest, hrest.symm.trans ?_⟩
    simp [operandWindow, BitVec.add_assoc]
  next => simp at h

section
variable {s : State}

theorem fetchByte_of_operand {d : Byte} (h : [d] <+: operandWindow s) :
    fetchByte s = (d, consumeByte s) := by
  obtain ⟨rfl, -⟩ := List.cons_prefix_cons.mp h
  rfl

theorem fetchWord_of_operand {w : Word} (h : [loByte w, hiByte w] <+: operandWindow s) :
    fetchWord s = (w, consumeWord s) := by
  obtain ⟨hlo, h'⟩ := List.cons_prefix_cons.mp h
  obtain ⟨hhi, -⟩ := List.cons_prefix_cons.mp h'
  rw [fetchWord, ← hlo, ← hhi, wordOf_hiByte_loByte]
  rfl

end

namespace Reference

/-! ### The opcode table and the modes -/

/-- The table has no row for an unmapped opcode (R95). -/
theorem lookup_eq_none {op : Byte} (h : op ∉ mappedOpcodes) : lookup op = none := by
  have mapped : ∀ row ∈ opcodeTable, row.code ∈ mappedOpcodes := by decide
  refine List.find?_eq_none.mpr fun row hrow hcode => h ?_
  rw [← eq_of_beq hcode]
  exact mapped row hrow

/-- The interpreter's index addition is the resolvers' shared tail (R119). -/
theorem addIndex_eq (fixed : Bool) (base : Word) (index : Byte) (s : State) :
    addIndex fixed base index s = indexed fixed base index s := by
  cases fixed with
  | true => rfl
  | false =>
    simp only [addIndex, indexed, indexPenalty, crossed, page, Bool.false_or, bne_iff_ne,
      Bool.false_eq_true, if_false]
    split <;> rfl

/-- Two bytes of a pointer at one cycle each are one pointer read (R61). -/
theorem pointerAt_eq (p : Byte) (s : State) : pointerAt p s = readPointer p s :=
  Prod.ext rfl (tick_tick s 1 1)

section
variable {fixed : Bool} {s : State} {d : Byte} {w : Word}

section
variable (h : [d] <+: operandWindow s)
include h

theorem resolve_zeroPage : resolve fixed .zeroPage s = addrZeroPage d s := by
  rw [resolve, fetchByte_of_operand h, addrZeroPage]

theorem resolve_zeroPageX : resolve fixed .zeroPageX s = addrZeroPageX d s := by
  rw [resolve, fetchByte_of_operand h]
  rfl

theorem resolve_zeroPageY : resolve fixed .zeroPageY s = addrZeroPageY d s := by
  rw [resolve, fetchByte_of_operand h]
  rfl

theorem resolve_indirectX : resolve fixed .indirectX s = addrIndirectX d s := by
  rw [resolve, fetchByte_of_operand h, pointerAt_eq]
  rfl

theorem resolve_indirectY : resolve fixed .indirectY s = addrIndirectY fixed d s := by
  rw [resolve, fetchByte_of_operand h, addIndex_eq, pointerAt_eq]
  rfl

end

section
variable (h : [loByte w, hiByte w] <+: operandWindow s)
include h

theorem resolve_absolute : resolve fixed .absolute s = addrAbsolute w s := by
  rw [resolve, fetchWord_of_operand h, addrAbsolute]

theorem resolve_absoluteX : resolve fixed .absoluteX s = addrAbsoluteX fixed w s := by
  rw [resolve, fetchWord_of_operand h, addIndex_eq]
  rfl

theorem resolve_absoluteY : resolve fixed .absoluteY s = addrAbsoluteY fixed w s := by
  rw [resolve, fetchWord_of_operand h, addIndex_eq]
  rfl

end
end

/-! ### Each instruction is the row of its opcode -/

/-- The instruction does from `s` what the row of its opcode does. -/
def Agrees (i : Instr) (s : State) : Prop :=
  ∃ row, lookup i.opcode = some row ∧ exec i s = .next (perform row s)

section
variable {i : Instr} {s : State} {r : Reg} {ea : Word × State} {code : Byte} {mode : Mode} {base : Nat}

theorem agrees_load (hexec : exec i s = load r ea)
    (hrow : lookup i.opcode = some ⟨code, .load r, mode, base⟩) (hea : resolve false mode s = ea)
    (hmode : mode ≠ .immediate) : Agrees i s := by
  refine ⟨_, hrow, ?_⟩
  subst hea
  cases mode
  case immediate => exact absurd rfl hmode
  all_goals exact hexec

theorem agrees_loadImmediate {d : Byte} (hexec : exec i s = loadValue r (operandImmediate d s))
    (hrow : lookup i.opcode = some ⟨code, .load r, .immediate, base⟩)
    (h : [d] <+: operandWindow s) : Agrees i s := by
  refine ⟨_, hrow, ?_⟩
  rw [hexec, operandImmediate, ← fetchByte_of_operand h]
  rfl

theorem agrees_store (hexec : exec i s = store r ea)
    (hrow : lookup i.opcode = some ⟨code, .store r, mode, base⟩) (hea : resolve true mode s = ea) :
    Agrees i s := by
  subst hea
  exact ⟨_, hrow, hexec⟩

/-- With its operand at `PC`, every instruction does what the row of its opcode does. -/
theorem agrees_of_operand (h : i.operandBytes <+: operandWindow s) : Agrees i s := by
  cases i
  case ldaImm | ldxImm | ldyImm => exact agrees_loadImmediate rfl rfl h
  case ldaZp | ldxZp | ldyZp => exact agrees_load rfl rfl (resolve_zeroPage h) (by decide)
  case ldaZpX | ldyZpX => exact agrees_load rfl rfl (resolve_zeroPageX h) (by decide)
  case ldxZpY => exact agrees_load rfl rfl (resolve_zeroPageY h) (by decide)
  case ldaAbs | ldxAbs | ldyAbs => exact agrees_load rfl rfl (resolve_absolute h) (by decide)
  case ldaAbsX | ldyAbsX => exact agrees_load rfl rfl (resolve_absoluteX h) (by decide)
  case ldaAbsY | ldxAbsY => exact agrees_load rfl rfl (resolve_absoluteY h) (by decide)
  case ldaIndX => exact agrees_load rfl rfl (resolve_indirectX h) (by decide)
  case ldaIndY => exact agrees_load rfl rfl (resolve_indirectY h) (by decide)
  case staZp | stxZp | styZp => exact agrees_store rfl rfl (resolve_zeroPage h)
  case staZpX | styZpX => exact agrees_store rfl rfl (resolve_zeroPageX h)
  case stxZpY => exact agrees_store rfl rfl (resolve_zeroPageY h)
  case staAbs | stxAbs | styAbs => exact agrees_store rfl rfl (resolve_absolute h)
  case staAbsX => exact agrees_store rfl rfl (resolve_absoluteX h)
  case staAbsY => exact agrees_store rfl rfl (resolve_absoluteY h)
  case staIndX => exact agrees_store rfl rfl (resolve_indirectX h)
  case staIndY => exact agrees_store rfl rfl (resolve_indirectY h)
  case tax | txa | tay | tya | tsx | txs | pha | php | pla | plp => exact ⟨_, rfl, rfl⟩

end

theorem referenceStep_unmapped {s : State} (h : memRead s.mem s.pc ∉ mappedOpcodes) :
    referenceStep s = raise (.unknownOpcode (memRead s.mem s.pc) s.pc) (fetchByte s).2 := by
  rw [referenceStep, fetchByte_fst, lookup_eq_none h]

theorem referenceStep_row {s : State} {row : Row} (h : lookup (memRead s.mem s.pc) = some row) :
    referenceStep s = perform row (fetchByte s).2 := by
  rw [referenceStep, fetchByte_fst, h]

end Reference

end Sys2Proof.Machine

namespace Sys2Proof.Proofs
open Sys2Proof.Machine

/-- Settles O17: an unmapped byte raises in both; a decoded instruction is the row that its opcode byte
selects, with the operand that the decoder read standing where the interpreter fetches it. -/
theorem instructionRunIsTheReferenceStep : Obligations.InstructionRunIsTheReferenceStep := by
  intro s
  cases hi : nextInstr s with
  | none =>
    rw [runInstruction_none hi, Reference.referenceStep_unmapped (unmapped_of_nextInstr_none hi)]
  | some i =>
    obtain ⟨hop, hoperand⟩ := bytes_of_nextInstr hi
    obtain ⟨row, hrow, hexec⟩ := Reference.agrees_of_operand hoperand
    rw [runInstruction_some hi, hexec, Reference.referenceStep_row (hop ▸ hrow)]

end Sys2Proof.Proofs
end

/-! ## The rows of the loads

`SetZN` is the formula that the rows are stated with, a resolver of an indexed mode charges the crossing,
and one rule for all loads joins them (spec/42_loads.md R150 to R168). -/

section
namespace Sys2Proof.Machine
open Sys2Proof.Spec

/-! ### `SetZN` as one formula -/

/-- Every bit of the status byte is a flag's. -/
theorem Flag.exists_pos {k : Nat} (hk : k < 8) : ∃ f : Flag, f.pos = k := by
  interval_cases k
  exacts [⟨.c, rfl⟩, ⟨.z, rfl⟩, ⟨.i, rfl⟩, ⟨.d, rfl⟩, ⟨.b, rfl⟩, ⟨.u, rfl⟩, ⟨.v, rfl⟩, ⟨.n, rfl⟩]

theorem eq_of_isFlagSet_eq {p q : Byte} (h : ∀ f, isFlagSet p f = isFlagSet q f) : p = q := by
  apply BitVec.eq_of_getLsbD_eq
  intro k hk
  obtain ⟨f, rfl⟩ := Flag.exists_pos hk
  exact h f

/-- The bits of the formula: bit 1 is set for 0 and bit 7 with that of the value, and the old bits stay,
but for these two where the flags are not set-only. -/
theorem isFlagSet_znByte (cfg : Config) (p v : Byte) (f : Flag) :
    isFlagSet (znByte cfg p v) f =
      (decide (f = .z) && v == 0#8 || decide (f = .n) && v.getLsbD 7 ||
        (cfg.znSetOnly || decide (f ≠ .z ∧ f ≠ .n)) && isFlagSet p f) := by
  have oldBit : isFlagSet (if cfg.znSetOnly then p else p &&& 0x7D#8) f =
      ((cfg.znSetOnly || decide (f ≠ .z ∧ f ≠ .n)) && isFlagSet p f) := by
    cases cfg.znSetOnly <;> cases f <;> simp [isFlagSet, Flag.pos]
  have zeroBit : isFlagSet (if v = 0#8 then 0x02#8 else 0x00#8) f = (decide (f = .z) && v == 0#8) := by
    by_cases hv : v = 0#8 <;> cases f <;> simp [isFlagSet, Flag.pos, hv]
  have negativeBit : isFlagSet (v &&& 0x80#8) f = (decide (f = .n) && v.getLsbD 7) := by
    cases f <;> simp [isFlagSet, Flag.pos]
  rw [← oldBit, ← zeroBit, ← negativeBit, znByte]
  simp only [isFlagSet, BitVec.getLsbD_or]
  ac_rfl

/-- `SetZN` sets and leaves the bits that the formula says (R27). -/
theorem setZN_eq_znByte (cfg : Config) (p v : Byte) : setZN cfg p v = znByte cfg p v := by
  apply eq_of_isFlagSet_eq
  intro f
  rw [isFlagSet_znByte]
  by_cases hz : f = .z
  · subst hz
    simp [isFlagSet_setZN_z]
  · by_cases hn : f = .n
    · subst hn
      simp [isFlagSet_setZN_n]
    · simp [isFlagSet_setZN_other _ _ _ hz hn, hz, hn]

/-! ### The indexed modes charge whole cycles -/

section
variable (s : State)

theorem indexed_snd_tick (fixed : Bool) (base : Word) (index : Byte) :
    (indexed fixed base index s).2 = tick (if fixed then 1 else crossing base index) s := by
  rw [indexed_snd, tick, Nat.cast_ite, Nat.cast_one]

theorem addrAbsoluteX_snd (fixed : Bool) (w : Word) :
    (addrAbsoluteX fixed w s).2 =
      tick (2 + if fixed then 1 else crossing w s.x) (advancePc 2 s) := by
  rw [addrAbsoluteX, indexed_snd_tick, consumeWord_eq, tick_tick]

theorem addrAbsoluteY_snd (fixed : Bool) (w : Word) :
    (addrAbsoluteY fixed w s).2 =
      tick (2 + if fixed then 1 else crossing w s.y) (advancePc 2 s) := by
  rw [addrAbsoluteY, indexed_snd_tick, consumeWord_eq, tick_tick]

theorem addrIndirectY_snd_tick (fixed : Bool) (d : Byte) :
    (addrIndirectY fixed d s).2 =
      tick (3 + if fixed then 1 else crossing (pointer s d) s.y) (advancePc 1 s) := by
  rw [addrIndirectY_snd, indexed_snd_tick, tick_tick]

end

/-! ### A row from the meaning of its instruction -/

/-- A value goes to a general register, and `SetZN` of it: the effect of the rows that write one. -/
def intoReg : Reg → Byte → State → State
  | .a => toA
  | .x => toX
  | .y => toY

theorem applyZN_writeReg (r : Reg) (v : Byte) (s : State) :
    applyZN v (writeReg r v s) = intoReg r v s := by
  rw [applyZN, setZN_eq_znByte]
  cases r <;> rfl

/-- A word operand is encoded low byte first (R92). -/
theorem encode_wordOf {i : Instr} {op lo hi : Byte} (hop : i.opcode = op)
    (hoperand : i.operandBytes = [loByte (wordOf hi lo), hiByte (wordOf hi lo)]) :
    encode i = [op, lo, hi] := by
  rw [encode, hop, hoperand, loByte_wordOf, hiByte_wordOf]

section
variable {i : Instr} {code : List Byte} {cycles k : Nat} {s : State} (r : Reg)

/-- An instruction that, with its operand fetched and its cycles charged, writes a register and applies
`SetZN`. -/
theorem performs_intoReg {v : Byte} {t : State} (hcode : encode i = code)
    (hexec : exec i s = .next (applyZN v (writeReg r v t)))
    (ht : t = tick k (advancePc (BitVec.ofNat 16 (code.length - 1)) s)) (hcycles : cycles = k + 1) :
    Performs i code cycles s (intoReg r v) := by
  have charged : (cycles : Int) - 1 = k := by omega
  refine ⟨hcode, ?_⟩
  rw [hexec, applyZN_writeReg, ht, charged]
  cases r <;> rfl

/-- A load from memory takes two cycles beyond its resolver's: the opcode fetch and the read (R150). -/
theorem performs_load (ea : Word × State) (hcode : encode i = code)
    (hexec : exec i s = load r ea)
    (hea : ea.2 = tick k (advancePc (BitVec.ofNat 16 (code.length - 1)) s))
    (hcycles : cycles = k + 2) : Performs i code cycles s (intoReg r (memRead s.mem ea.1)) := by
  have sameMemory : ea.2.mem = s.mem := by rw [hea]; rfl
  refine performs_intoReg r hcode (t := tick 1 ea.2) ?_ (by rw [hea, tick_tick]) hcycles
  rw [hexec, ← sameMemory]
  rfl

/-! One rule per mode: its address, its length, and its cycles with the page penalty. -/

variable {op d lo hi : Byte}

theorem performs_load_immediate (hcode : encode i = [op, d])
    (hexec : exec i s = loadValue r (operandImmediate d s)) :
    Performs i [op, d] 2 s (intoReg r d) :=
  performs_intoReg r hcode hexec rfl rfl

theorem performs_load_zeroPage (hcode : encode i = [op, d])
    (hexec : exec i s = load r (addrZeroPage d s)) :
    Performs i [op, d] 3 s (intoReg r (memRead s.mem (zext16 d))) :=
  performs_load r _ hcode hexec rfl rfl

theorem performs_load_zeroPageX (hcode : encode i = [op, d])
    (hexec : exec i s = load r (addrZeroPageX d s)) :
    Performs i [op, d] 4 s (intoReg r (memRead s.mem (zext16 (d + s.x)))) :=
  performs_load r _ hcode hexec (addrZeroPageX_snd s d) rfl

theorem performs_load_zeroPageY (hcode : encode i = [op, d])
    (hexec : exec i s = load r (addrZeroPageY d s)) :
    Performs i [op, d] 4 s (intoReg r (memRead s.mem (zext16 (d + s.y)))) :=
  performs_load r _ hcode hexec (addrZeroPageY_snd s d) rfl

theorem performs_load_absolute (hcode : encode i = [op, lo, hi])
    (hexec : exec i s = load r (addrAbsolute (wordOf hi lo) s)) :
    Performs i [op, lo, hi] 4 s (intoReg r (memRead s.mem (wordOf hi lo))) :=
  performs_load r _ hcode hexec rfl rfl

theorem performs_load_absoluteX (hcode : encode i = [op, lo, hi])
    (hexec : exec i s = load r (addrAbsoluteX false (wordOf hi lo) s)) :
    Performs i [op, lo, hi] (4 + crossing (wordOf hi lo) s.x) s
      (intoReg r (memRead s.mem (wordOf hi lo + zext16 s.x))) :=
  performs_load r _ hcode hexec (addrAbsoluteX_snd s false _) (Nat.add_right_comm 2 2 _)

theorem performs_load_absoluteY (hcode : encode i = [op, lo, hi])
    (hexec : exec i s = load r (addrAbsoluteY false (wordOf hi lo) s)) :
    Performs i [op, lo, hi] (4 + crossing (wordOf hi lo) s.y) s
      (intoReg r (memRead s.mem (wordOf hi lo + zext16 s.y))) :=
  performs_load r _ hcode hexec (addrAbsoluteY_snd s false _) (Nat.add_right_comm 2 2 _)

theorem performs_load_indirectX (hcode : encode i = [op, d])
    (hexec : exec i s = load r (addrIndirectX d s)) :
    Performs i [op, d] 6 s (intoReg r (memRead s.mem (pointer s (d + s.x)))) :=
  performs_load r _ hcode hexec (addrIndirectX_snd s d) rfl

theorem performs_load_indirectY (hcode : encode i = [op, d])
    (hexec : exec i s = load r (addrIndirectY false d s)) :
    Performs i [op, d] (5 + crossing (pointer s d) s.y) s
      (intoReg r (memRead s.mem (pointer s d + zext16 s.y))) :=
  performs_load r _ hcode hexec (addrIndirectY_snd_tick s false d) (Nat.add_right_comm 3 2 _)

end

end Sys2Proof.Machine

namespace Sys2Proof.Proofs
open Sys2Proof.Machine Sys2Proof.Spec

/-- Settles O25: the operand is the value loaded. -/
theorem immediateLoads : Obligations.ImmediateLoads :=
  fun _ _ => ⟨performs_load_immediate .a rfl rfl, performs_load_immediate .x rfl rfl,
    performs_load_immediate .y rfl rfl⟩

/-- Settles O26: each mode is a load at its resolver's address, with the resolver's cycles. -/
theorem ldaFromMemory : Obligations.LdaFromMemory :=
  fun _ _ _ _ =>
    ⟨performs_load_zeroPage .a rfl rfl,
      performs_load_zeroPageX .a rfl rfl,
      performs_load_absolute .a (encode_wordOf rfl rfl) rfl,
      performs_load_absoluteX .a (encode_wordOf rfl rfl) rfl,
      performs_load_absoluteY .a (encode_wordOf rfl rfl) rfl,
      performs_load_indirectX .a rfl rfl,
      performs_load_indirectY .a rfl rfl⟩

/-- Settles O27: LDX is a load in four of the modes, and its index is `Y`. -/
theorem ldxFromMemory : Obligations.LdxFromMemory :=
  fun _ _ _ _ =>
    ⟨performs_load_zeroPage .x rfl rfl,
      performs_load_zeroPageY .x rfl rfl,
      performs_load_absolute .x (encode_wordOf rfl rfl) rfl,
      performs_load_absoluteY .x (encode_wordOf rfl rfl) rfl⟩

/-- Settles O28: LDY is a load in four of the modes, and its index is `X`. -/
theorem ldyFromMemory : Obligations.LdyFromMemory :=
  fun _ _ _ _ =>
    ⟨performs_load_zeroPage .y rfl rfl,
      performs_load_zeroPageX .y rfl rfl,
      performs_load_absolute .y (encode_wordOf rfl rfl) rfl,
      performs_load_absoluteX .y (encode_wordOf rfl rfl) rfl⟩

/-- Settles O35: every instruction answers, and no answer touches the three elements. -/
theorem everyInstructionCompletes : Obligations.EveryInstructionCompletes := by
  intro i s
  obtain ⟨t, ht⟩ := exec_answers i s
  have kept := exec_keeps ht
  exact ⟨t, ht, kept.run, kept.inbox, kept.config⟩

end Sys2Proof.Proofs
end

/-! ## The rows of the stores and the frame of the memory

One rule for all stores gives their rows (spec/43_stores.md R170 to R183).  The memory after a storing
instruction is `exec_mem_of_storeTarget`; every other instruction leaves the memory it found. -/

section
namespace Sys2Proof.Machine
open Sys2Proof.Spec

/-- A store takes two cycles beyond its resolver's: the opcode fetch and the write.  What it writes is the
register as it was before, since a resolver touches none (R170). -/
theorem performs_store {i : Instr} {code : List Byte} {cycles k : Nat} {s : State} (r : Reg)
    (ea : Word × State) (hcode : encode i = code) (hexec : exec i s = store r ea)
    (hea : ea.2 = tick k (advancePc (BitVec.ofNat 16 (code.length - 1)) s))
    (hcycles : cycles = k + 2) : Performs i code cycles s (toMem ea.1 (readReg r s)) := by
  have sameSource : readReg r ea.2 = readReg r s := by
    rw [hea, readReg_tick, readReg_advancePc]
  have charged : s.cyc - ((cycles : Int) - 1) = s.cyc - k - 1 := by omega
  refine ⟨hcode, ?_⟩
  rw [hexec, store, sameSource, hea, charged]
  rfl

/-! ### The memory after an instruction that stores nothing -/

section
variable {s t : State} {r : Reg}

theorem load_mem {ea : Word × State} (hea : OnlyPcAndMeter s ea.2) (h : load r ea = .next t) :
    t.mem = s.mem := by
  obtain ⟨n, k, hn⟩ := hea
  rw [load_answers h, hn]
  simp

theorem loadImmediate_mem {d : Byte} (h : loadValue r (operandImmediate d s) = .next t) :
    t.mem = s.mem := by
  rw [loadValue_answers h]
  simp [operandImmediate]

theorem transferTo_mem {v : Byte} (h : transferTo r v s = .next t) : t.mem = s.mem := by
  rw [transferTo_answers h]
  simp

/-- A load, a transfer or a pull leaves all of memory (R150, R190, R200). -/
theorem exec_mem_of_storeTarget_none {i : Instr} (h : exec i s = .next t)
    (htarget : storeTarget i s = none) : t.mem = s.mem := by
  cases i <;> cases htarget
  case ldaImm | ldxImm | ldyImm => exact loadImmediate_mem h
  case ldaZp | ldxZp | ldyZp => exact load_mem (addrZeroPage_effect s _) h
  case ldaZpX | ldyZpX => exact load_mem (addrZeroPageX_effect s _) h
  case ldxZpY => exact load_mem (addrZeroPageY_effect s _) h
  case ldaAbs | ldxAbs | ldyAbs => exact load_mem (addrAbsolute_effect s _) h
  case ldaAbsX | ldyAbsX => exact load_mem (addrAbsoluteX_effect s _ _) h
  case ldaAbsY | ldxAbsY => exact load_mem (addrAbsoluteY_effect s _ _) h
  case ldaIndX => exact load_mem (addrIndirectX_effect s _) h
  case ldaIndY => exact load_mem (addrIndirectY_effect s _ _) h
  case tax | txa | tay | tya | tsx => exact transferTo_mem h
  case txs | pla | plp =>
    cases h
    rfl

end

end Sys2Proof.Machine

namespace Sys2Proof.Proofs
open Sys2Proof.Machine Sys2Proof.Spec

/-- Settles O29: each mode is a store of `A` at its resolver's address, and the indexed resolvers are
called at their fixed cost. -/
theorem staToMemory : Obligations.StaToMemory :=
  fun s d lo hi =>
    ⟨performs_store .a (addrZeroPage d s) rfl rfl rfl rfl,
      performs_store .a (addrZeroPageX d s) rfl rfl (addrZeroPageX_snd s d) rfl,
      performs_store .a (addrAbsolute (wordOf hi lo) s) (encode_wordOf rfl rfl) rfl rfl rfl,
      performs_store .a (addrAbsoluteX true (wordOf hi lo) s) (encode_wordOf rfl rfl) rfl
        (addrAbsoluteX_snd s true _) rfl,
      performs_store .a (addrAbsoluteY true (wordOf hi lo) s) (encode_wordOf rfl rfl) rfl
        (addrAbsoluteY_snd s true _) rfl,
      performs_store .a (addrIndirectX d s) rfl rfl (addrIndirectX_snd s d) rfl,
      performs_store .a (addrIndirectY true d s) rfl rfl (addrIndirectY_snd_tick s true d) rfl⟩

/-- Settles O30: STX is a store in three of the modes, and its index is `Y`. -/
theorem stxToMemory : Obligations.StxToMemory :=
  fun s d lo hi =>
    ⟨performs_store .x (addrZeroPage d s) rfl rfl rfl rfl,
      performs_store .x (addrZeroPageY d s) rfl rfl (addrZeroPageY_snd s d) rfl,
      performs_store .x (addrAbsolute (wordOf hi lo) s) (encode_wordOf rfl rfl) rfl rfl rfl⟩

/-- Settles O31: STY is a store in three of the modes, and its index is `X`. -/
theorem styToMemory : Obligations.StyToMemory :=
  fun s d lo hi =>
    ⟨performs_store .y (addrZeroPage d s) rfl rfl rfl rfl,
      performs_store .y (addrZeroPageX d s) rfl rfl (addrZeroPageX_snd s d) rfl,
      performs_store .y (addrAbsolute (wordOf hi lo) s) (encode_wordOf rfl rfl) rfl rfl rfl⟩

/-- Settles O36: the memory afterwards is the one from before with the target cell written, or the one
from before itself; the reads are read after write on the canonical memory. -/
theorem memoryFrame : Obligations.MemoryFrame := by
  intro i s t hm h
  constructor
  · intro ea v htarget
    rw [exec_mem_of_storeTarget h htarget]
    exact ⟨memRead_memWrite_same ea v hm, fun _ hb => memRead_memWrite_other s.mem v hb⟩
  · intro htarget b
    rw [exec_mem_of_storeTarget_none h htarget]

end Sys2Proof.Proofs
end

/-! ## The rows of the transfers

A transfer is one byte long: it fetches no operand, and charges one cycle beyond its opcode fetch
(spec/44_transfers.md R190 to R196).  Five of the six share `transferTo`; TXS writes `SP` and leaves `P`. -/

section
namespace Sys2Proof.Machine
open Sys2Proof.Spec

section
variable {i : Instr} {op : Byte} {s : State}

/-- A transfer to a general register gives it the source's value and applies `SetZN` (R190). -/
theorem performs_transferTo {v : Byte} (r : Reg) (hcode : encode i = [op])
    (hexec : exec i s = transferTo r v s) : Performs i [op] 2 s (intoReg r v) := by
  have noOperand : tick 1 s = tick 1 (advancePc 0 s) := by rw [advancePc_zero]
  exact performs_intoReg r hcode hexec noOperand rfl

/-- TXS copies `X` to `SP` and applies no `SetZN` (R196). -/
theorem performs_txs : Performs .txs [0x9A#8] 2 s (fun u => { u with sp := u.x }) := by
  have charged : exec .txs s = .next (setSp s.x (tick 1 (advancePc 0 s))) := by
    rw [advancePc_zero]
    rfl
  exact ⟨rfl, charged⟩

end

end Sys2Proof.Machine

namespace Sys2Proof.Proofs
open Sys2Proof.Machine Sys2Proof.Spec

/-- Settles O32: five transfers are `transferTo` of their source, and TXS has its own meaning. -/
theorem registerTransfers : Obligations.RegisterTransfers :=
  fun _ =>
    ⟨performs_transferTo .x rfl rfl,
      performs_transferTo .a rfl rfl,
      performs_transferTo .y rfl rfl,
      performs_transferTo .a rfl rfl,
      performs_transferTo .x rfl rfl,
      performs_txs⟩

end Sys2Proof.Proofs
end

/-! ## The rows of the stack instructions

A push and a pull are one byte long: beyond the opcode fetch a push charges two cycles and a pull three
(spec/45_stack.md R200 to R204). -/

section
namespace Sys2Proof.Machine
open Sys2Proof.Spec

section
variable {i : Instr} {op : Byte} {s : State}

/-- An instruction without an operand is its effect and the cycles beyond its opcode fetch: `PC` is past
all of it before it starts. -/
theorem performs_oneByte {cycles k : Nat} {effect : State → State} (hcode : encode i = [op])
    (hexec : exec i s = .next (tick k (effect s))) (hpc : (effect s).pc = s.pc)
    (hcyc : (effect s).cyc = s.cyc) (hcycles : cycles = k + 1) : Performs i [op] cycles s effect := by
  have pastIt : (effect s).pc = s.pc + BitVec.ofNat 16 ([op].length - 1) :=
    hpc.trans (BitVec.add_zero s.pc).symm
  have charged : s.cyc - ((cycles : Int) - 1) = (effect s).cyc - k := by omega
  refine ⟨hcode, ?_⟩
  rw [hexec, ← pastIt, charged]
  rfl

/-- A push stores its source's byte to the cell that `SP` designates, then moves `SP` down (R63, R200). -/
theorem performs_push (source : State → Byte) (hcode : encode i = [op])
    (hexec : exec i s = push (source s) s) :
    Performs i [op] 3 s
      (fun u => { toMem (0x0100#16 + zext16 u.sp) (source u) u with sp := u.sp - 1 }) := by
  refine performs_oneByte (k := 2) hcode ?_ rfl rfl rfl
  rw [hexec]
  exact congrArg Host.Outcome.next (push_answers rfl)

end

/-- A pull is the byte above the old `SP`, with `SP` moved up and three cycles charged (R64, R200). -/
theorem pull_eq (s : State) :
    pull s = (memRead s.mem (stackAddr (s.sp + 1)), tick 3 (setSp (s.sp + 1) s)) :=
  Prod.ext (pull_fst s) (pull_snd s)

/-- PLA writes the byte pulled to `A` and applies `SetZN` (R203). -/
theorem performs_pla {s : State} :
    Performs .pla [0x68#8] 4 s
      (fun u => { toA (memRead u.mem (0x0100#16 + zext16 (u.sp + 1))) u with sp := u.sp + 1 }) := by
  refine performs_oneByte (k := 3) rfl ?_ rfl rfl rfl
  rw [exec, execPla, pull_eq, applyZN_writeReg]
  rfl

/-- PLP replaces all of `P` by the byte pulled (R204). -/
theorem performs_plp {s : State} :
    Performs .plp [0x28#8] 4 s
      (fun u => { u with p := memRead u.mem (0x0100#16 + zext16 (u.sp + 1)), sp := u.sp + 1 }) := by
  refine performs_oneByte (k := 3) rfl ?_ rfl rfl rfl
  rw [exec, execPlp, pull_eq]
  rfl

end Sys2Proof.Machine

namespace Sys2Proof.Proofs
open Sys2Proof.Machine Sys2Proof.Spec

/-- Settles O33: PHA is a push of `A` and PHP a push of `P`. -/
theorem pushInstructions : Obligations.PushInstructions :=
  fun _ => ⟨performs_push State.a rfl rfl, performs_push State.p rfl rfl⟩

/-- Settles O34: the two pulls share `pull` and differ in where the byte goes. -/
theorem pullInstructions : Obligations.PullInstructions :=
  fun _ => ⟨performs_pla, performs_plp⟩

end Sys2Proof.Proofs
end

/-! ## The latch of a fault and the idle core

A fault is latched by the unknown opcode alone (spec/60_exceptions.md R211, R216): the loop test and the
host's moves latch none.  A latched fault goes by Reset alone (R218). -/

section
namespace Sys2Proof.Machine

/-- The loop test of R130 answers Running or Halted. -/
theorem loopTest_ne_faulted (p : Prop) [Decidable p] (c : FaultCause) :
    (if p then RunState.running else .halted) ≠ .faulted c := by
  split <;> exact RunState.noConfusion

/-- No move of the host latches a fault: what is latched after it was latched before it. -/
theorem faulted_of_applyHostMove {m : HostMove} {s : State} {c : FaultCause}
    (h : (applyHostMove m s).run = .faulted c) : s.run = .faulted c := by
  by_cases hreset : m = .reset
  · subst hreset
    exact RunState.noConfusion h
  by_cases hexec : ∃ b, m = .execute b
  · obtain ⟨b, rfl⟩ := hexec
    by_contra hs
    have unlatched : ∀ d, s.run ≠ .faulted d := by
      intro d hd
      rw [applyHostMove_faulted hd hreset] at h
      exact hs (hd.trans h)
    rw [applyHostMove, beginExecute_unfaulted b unlatched] at h
    exact loopTest_ne_faulted _ c h
  · rwa [(applyHostMove_run_cyc m s hreset (by simpa using hexec)).1] at h

/-- A step that latches a fault found no instruction at `PC`, and the cause tells the byte and its
address. -/
theorem step_latches {s t : State} {c : FaultCause} (h : step s = .next t)
    (ht : t.run = .faulted c) (hs : s.run ≠ .faulted c) :
    s.run = .running ∧ 0 < s.cyc ∧ nextInstr s = none ∧
      c = .unknownOpcode (memRead s.mem s.pc) s.pc := by
  obtain ⟨-, -, rfl⟩ | ⟨hr, hc, hi, rfl⟩ | ⟨-, -, i, u, -, -, rfl⟩ | ⟨-, -, rfl⟩ |
    ⟨-, m, rest, -, rfl⟩ := step_cases h
  · exact RunState.noConfusion ht
  · exact ⟨hr, hc, hi, (RunState.faulted.inj ht).symm⟩
  · exact absurd ht (loopTest_ne_faulted _ c)
  · exact absurd ht hs
  · exact absurd (faulted_of_applyHostMove ht) hs

/-- A step out of Faulted is the host's Reset (spec/60_exceptions.md R218). -/
theorem reset_of_step_unlatches {s t : State} {c : FaultCause} (hs : s.run = .faulted c)
    (h : step s = .next t) (ht : t.run ≠ .faulted c) : s.inbox.head? = some .reset := by
  by_contra hb
  exact ht <| step_keeps_run hs (by simp) h fun m rest hi =>
    applyHostMove_faulted hs fun hm => hb (by rw [hi, hm]; rfl)

/-- A step that makes the host's move takes it from the list. -/
theorem step_ne_self_of_move {s : State} {m : HostMove} {rest : List HostMove}
    (hr : s.run ≠ .running) (hb : s.inbox = m :: rest) : step s ≠ .next s := by
  intro h
  have taken : applyHostMove m { s with inbox := rest } = s :=
    Host.Outcome.next.inj ((step_hostMove hr hb).symm.trans h)
  have shorter : rest = s.inbox := by simpa using congrArg State.inbox taken
  exact List.cons_ne_self m rest (hb.symm.trans shorter.symm)

end Sys2Proof.Machine

namespace Sys2Proof.Proofs
open Sys2Proof.Machine

/-- Settles O12: the forward rule of the unknown opcode, and the one branch of a step that latches. -/
theorem unknownOpcodeStopsTheCore : Obligations.UnknownOpcodeStopsTheCore := by
  constructor
  · rintro s op hr hc rfl hop
    exact step_unknownOpcode hr hc (nextInstr_eq_none_iff.mpr hop)
  · intro s t cause h ht hs
    obtain ⟨hr, hc, hi, hcause⟩ := step_latches h ht hs
    exact ⟨hr, hc, nextInstr_eq_none_iff.mp hi, hcause⟩

/-- Settles O13: each part is what a Faulted core does with the move at the front of the list. -/
theorem faultedStateIsSticky : Obligations.FaultedStateIsSticky := by
  intro s cause rest hs
  have move (m : HostMove) :
      step { s with inbox := m :: rest } = .next (applyHostMove m { s with inbox := rest }) :=
    step_hostMove (by simp [hs]) rfl
  exact ⟨fun _ => step_execute_faulted hs rfl, fun v => move (.writePc v),
    fun _ => reset_of_step_unlatches hs, _, move .reset, rfl, memRead_initialize⟩

/-- Settles O5: with no move the core idles, and a move that happens is gone from the list. -/
theorem idleCoreKeepsItsState : Obligations.IdleCoreKeepsItsState := by
  intro s hr
  constructor
  · intro h
    cases hb : s.inbox with
    | nil => rfl
    | cons m rest => exact absurd h (step_ne_self_of_move hr hb)
  · exact step_idle hr

end Sys2Proof.Proofs
end

/-! ## Reset, the meter and the cost of a step

Reset is one of the host's moves; the meter is a part of the state that no instruction reads; and a step's
cost is read off the reference interpreter, row by row of R93 (spec/70_reset_and_hazards.md R240 to R251). -/

section
namespace Sys2Proof.Machine

/-- Shifting the meter alone. -/
theorem withUnread_meter_only (k : Int) (s : State) :
    withUnread k s.run s.inbox s = { s with cyc := s.cyc + k } := rfl

/-! ### A step of a Running core is the reference step and the loop test -/

@[simp] theorem afterInstruction_pc (s : State) : (afterInstruction s).pc = s.pc := by
  unfold afterInstruction
  split <;> rfl

@[simp] theorem afterInstruction_cyc (s : State) : (afterInstruction s).cyc = s.cyc := by
  unfold afterInstruction
  split <;> rfl

theorem step_reference {s : State} (hr : s.run = .running) (hc : 0 < s.cyc) :
    step s = .next (afterInstruction (Reference.referenceStep s)) := by
  have hrun : runInstruction s = .next (Reference.referenceStep s) :=
    Proofs.instructionRunIsTheReferenceStep s
  rw [step_running hr, stepRunning, if_pos hc, hrun]

/-- A step of a mapped opcode takes 2 to 6 cycles (R249). -/
theorem step_mapped_cyc_bounds {s t : State} (hr : s.run = .running) (hc : 0 < s.cyc)
    (hop : memRead s.mem s.pc ∈ mappedOpcodes) (h : step s = .next t) :
    t.cyc ≤ s.cyc - 2 ∧ s.cyc - 6 ≤ t.cyc := by
  obtain ⟨i, hi⟩ := exists_nextInstr hop
  obtain ⟨u, hu⟩ := exec_answers i (fetchByte s).2
  obtain rfl := Host.Outcome.next.inj ((step_performs hr hc hi hu).symm.trans h)
  rw [setRun_cyc]
  refine ⟨exec_fetched_cyc_le hu, ?_⟩
  obtain ⟨e, he, rfl⟩ := exec_effect hu
  have overspend : s.cyc - 1 - 5 ≤ (e (fetchByte s).2).cyc := he.cyc_le _
  omega

namespace Reference

theorem mapped_of_lookup_row {op : Byte} {row : Row} (h : lookup op = some row) : op ∈ mappedOpcodes := by
  by_contra hop
  simp [lookup_eq_none hop] at h

/-! ### What each mode charges -/

/-- The opcode and a one-byte operand, fetched one after the other. -/
theorem fetchByte_fetchByte_snd (s : State) :
    (fetchByte (fetchByte s).2).2 = tick 2 (advancePc 2 s) := by
  simp only [fetchByte_snd, tick, advancePc, BitVec.add_assoc, State.mk.injEq, and_true, true_and]
  exact ⟨rfl, by omega⟩

/-- The opcode and a two-byte operand, fetched one after the other. -/
theorem fetchWord_fetchByte (s : State) : fetchWord (fetchByte s).2 =
    (wordOf (memRead s.mem (s.pc + 2)) (memRead s.mem (s.pc + 1)), tick 3 (advancePc 3 s)) := by
  simp only [fetchWord, fetchByte_snd, tick, advancePc, BitVec.add_assoc, Prod.mk.injEq,
    State.mk.injEq, and_true, true_and]
  exact ⟨rfl, rfl, by omega⟩

/-- The cycles of a mode's resolver without the index penalty (R113 to R122). -/
def Mode.cycles : Mode → Nat
  | .implied | .immediate => 0
  | .zeroPage => 1
  | .zeroPageX | .zeroPageY | .absolute | .absoluteX | .absoluteY => 2
  | .indirectY => 3
  | .indirectX => 4

/-- The cycle that a fixed-cycle caller pays in a mode that indexes at 16 bits (R119). -/
def Mode.fixedPenalty : Mode → Nat
  | .absoluteX | .absoluteY | .indirectY => 1
  | _ => 0

/-- The index penalty of a row for a caller of either kind (R119). -/
def indexCharge (fixed : Bool) (row : Row) (s : State) : Nat :=
  match indexedBase row s with
  | some (base, index) => penaltyCycles fixed base (base + zext16 index)
  | none => 0

theorem indexCharge_fixed (row : Row) (s : State) :
    indexCharge true row s = row.mode.fixedPenalty := by
  obtain ⟨code, op, mode, base⟩ := row
  cases mode <;> rfl

/-- A load's page penalty is what a variable-cycle caller pays. -/
theorem pagePenalty_load {row : Row} {r : Reg} (h : row.op = .load r) (s : State) :
    pagePenalty row s = indexCharge false row s := by
  unfold pagePenalty indexCharge
  rw [h]
  cases indexedBase row s with
  | none => rfl
  | some at16 => simp [penaltyCycles, crossed, page]

theorem pagePenalty_not_load {row : Row} (h : ∀ r, row.op ≠ .load r) (s : State) :
    pagePenalty row s = 0 := by
  unfold pagePenalty
  split
  · exact absurd ‹_› (h _)
  · rfl

theorem addIndex_snd (fixed : Bool) (base : Word) (index : Byte) (s : State) :
    (addIndex fixed base index s).2 = tick (penaltyCycles fixed base (base + zext16 index)) s := by
  rw [addIndex_eq, indexed, indexPenalty_eq]

/-- The operand of a row is fetched past `PC`, and its resolver charges the mode's cycles and the index
penalty.  An immediate operand has no address. -/
theorem resolve_snd (fixed : Bool) {row : Row} (h : row.mode ≠ .immediate) (s : State) :
    (resolve fixed row.mode (fetchByte s).2).2 =
      tick (1 + row.mode.cycles + indexCharge fixed row s)
        (advancePc (BitVec.ofNat 16 (1 + row.mode.operandLength)) s) := by
  obtain ⟨code, op, mode, base⟩ := row
  cases mode
  case implied => rfl
  case immediate => exact absurd rfl h
  case zeroPage => exact fetchByte_fetchByte_snd s
  case zeroPageX | zeroPageY =>
    simp only [resolve, fetchByte_fetchByte_snd, tick_tick]
    rfl
  case absolute => exact congrArg Prod.snd (fetchWord_fetchByte s)
  case absoluteX | absoluteY =>
    simp only [resolve, addIndex_snd, fetchWord_fetchByte, tick_tick]
    rfl
  case indirectX =>
    simp only [resolve, pointerAt_eq, readPointer_snd, fetchByte_fetchByte_snd, tick_tick]
    rfl
  case indirectY =>
    simp only [resolve, addIndex_snd, pointerAt_eq, readPointer_snd, fetchByte_fetchByte_snd,
      tick_tick]
    rfl

/-! ### What each row charges -/

/-- The base count of a row is that of its operation and mode, with the penalty of a fixed-cycle caller in
it; a store has an address, and the other rows are one byte long (R93, R249). -/
def Row.timed (row : Row) : Bool :=
  match row.op with
  | .load _ => row.base == 2 + row.mode.cycles
  | .store _ => row.mode != .immediate && row.base == 2 + row.mode.cycles + row.mode.fixedPenalty
  | .tax | .txa | .tay | .tya | .tsx | .txs => row.mode == .implied && row.base == 2
  | .pha | .php => row.mode == .implied && row.base == 3
  | .pla | .plp => row.mode == .implied && row.base == 4

theorem timed_of_lookup {op : Byte} {row : Row} (h : lookup op = some row) : row.timed = true := by
  have table : ∀ row ∈ opcodeTable, row.timed = true := by decide
  exact table row (List.mem_of_find?_eq_some h)

/-- Between the two states `PC` moved past `length` bytes and the meter paid `cycles`. -/
def Takes (length cycles : Nat) (s t : State) : Prop :=
  t.cyc = s.cyc - (cycles : Int) ∧ t.pc = s.pc + BitVec.ofNat 16 length

/-- A load fetches its operand and reads its byte; writing the register and the flags is free. -/
theorem perform_load_takes {row : Row} {r : Reg} (hop : row.op = .load r) (s : State) :
    Takes (1 + row.mode.operandLength) (2 + row.mode.cycles + indexCharge false row s) s
      (perform row (fetchByte s).2) := by
  by_cases hmode : row.mode = .immediate
  · simp only [perform, hop, hmode, Takes, applyZN_cyc, applyZN_pc, writeReg_cyc, writeReg_pc,
      fetchByte_fetchByte_snd, indexCharge, indexedBase]
    exact ⟨rfl, rfl⟩
  · simp only [perform, hop, Takes, applyZN_cyc, applyZN_pc, writeReg_cyc, writeReg_pc, readByte_snd,
      resolve_snd false hmode, tick_cyc, tick_pc, advancePc_cyc, advancePc_pc, and_true]
    omega

/-- A store fetches its operand and writes one cell. -/
theorem perform_store_takes {row : Row} {r : Reg} (hop : row.op = .store r)
    (hmode : row.mode ≠ .immediate) (s : State) :
    Takes (1 + row.mode.operandLength) (2 + row.mode.cycles + row.mode.fixedPenalty) s
      (perform row (fetchByte s).2) := by
  simp only [perform, hop, Takes, writeByte, storeCell_cyc, storeCell_pc, resolve_snd true hmode,
    indexCharge_fixed, tick_cyc, tick_pc, advancePc_cyc, advancePc_pc, and_true]
  omega

/-- A row whose base count is timed as its operation and mode are takes its total and its length. -/
theorem perform_takes {row : Row} (ht : row.timed = true) (s : State) :
    Takes (1 + row.mode.operandLength) (totalCycles row s) s (perform row (fetchByte s).2) := by
  unfold Row.timed at ht
  cases hop : row.op with
  | load r =>
    simp only [hop, beq_iff_eq] at ht
    rw [totalCycles, pagePenalty_load hop, ht]
    exact perform_load_takes hop s
  | store r =>
    simp only [hop, Bool.and_eq_true, bne_iff_ne, beq_iff_eq] at ht
    obtain ⟨hmode, hbase⟩ := ht
    rw [totalCycles, pagePenalty_not_load (by simp [hop]), hbase]
    exact perform_store_takes hop hmode s
  | tax | txa | tay | tya | tsx | txs | pha | php | pla | plp =>
    simp only [hop, Bool.and_eq_true, beq_iff_eq] at ht
    obtain ⟨hmode, hbase⟩ := ht
    rw [totalCycles, pagePenalty_not_load (by simp [hop]), hbase, hmode]
    constructor
    · simp only [perform, hop, fetchByte_snd, pushToStack, popFromStack, applyZN_cyc, setSp_cyc,
        storeCell_cyc, tick_cyc, advancePc_cyc]
      omega
    · simp only [perform, hop]
      rfl

end Reference
end Sys2Proof.Machine

namespace Sys2Proof.Proofs
open Sys2Proof.Machine

/-- Settles O2: between calls the move at the front happens, and Reset writes every element. -/
theorem resetTransactionSetsEveryElement : Obligations.ResetTransactionSetsEveryElement :=
  fun _ _ hr hb => ⟨_, step_hostMove hr hb, rfl, rfl, rfl, rfl, rfl, rfl, memRead_initialize, rfl, rfl,
    rfl, rfl, rfl⟩

/-- Settles O15: a step is the reference step and the loop test, which leaves `PC` and the meter; the row
takes its total, and the instruction it stands for 2 to 6 cycles. -/
theorem stepCostAndLength : Obligations.StepCostAndLength := by
  intro s hr hc
  have hstep := step_reference hr hc
  refine ⟨_, hstep, ?_⟩
  rw [afterInstruction_cyc, afterInstruction_pc]
  cases hrow : Reference.lookup (memRead s.mem s.pc) with
  | none =>
    rw [Reference.referenceStep, fetchByte_fst, hrow]
    exact ⟨rfl, rfl⟩
  | some row =>
    obtain ⟨hcyc, hpc⟩ := Reference.perform_takes (Reference.timed_of_lookup hrow) s
    obtain ⟨hmin, hmax⟩ := step_mapped_cyc_bounds hr hc (Reference.mapped_of_lookup_row hrow) hstep
    rw [afterInstruction_cyc, Reference.referenceStep_row hrow, hcyc] at hmin hmax
    rw [Reference.referenceStep_row hrow]
    exact ⟨hcyc, by omega, by omega, hpc⟩

/-- Settles O40: the meter is a part of the state that no instruction reads, and the run state and the
waiting moves, which go with it, are kept. -/
theorem effectsDoNotDependOnTheMeter : Obligations.EffectsDoNotDependOnTheMeter := by
  intro i s t k h
  have kept := exec_keeps h
  rw [← withUnread_meter_only, ← withUnread_meter_only, kept.run, kept.inbox]
  exact exec_withUnread h

end Sys2Proof.Proofs
end
